-- ==== Sys2Proof/Word.lean ====
section
/-! DEFINITION. The machine's word and byte (spec/00_scope.md R9, R14). -/

namespace Sys2Proof

/-- A 16-bit word: every register, memory cell, address and intermediate result (R9, R14). -/
abbrev Word := BitVec 16

/-- An 8-bit byte: a key, a console byte, a byte of an image file (R18, R166, R176). -/
abbrev Byte := BitVec 8

end Sys2Proof
end

