-- ==== Sys2Proof/Config.lean ====
section
/-! DEFINITION. What is fixed for one machine: the parameters of spec/00_scope.md R10 at the values that rule gives them, and the free values the spec leaves open. -/

namespace Sys2Proof

/-- One event of the keyboard's ordered input (R165). -/
inductive KeyEvent where
  | key (b : Byte)
  | failure
  deriving DecidableEq, Repr, Inhabited

end Sys2Proof

namespace Sys2Proof.Config

/-- KBSR_ADDR, the keyboard status register's address (R10, R38; log 3). -/
def kbsrAddr : Word := 0xFE00#16

/-- KBDR_ADDR, the keyboard data register's address (R10, R38; log 3). -/
def kbdrAddr : Word := 0xFE02#16

/-- COND's value for NEGATIVE: bit 2 (R10, R30; log 2). -/
def condN : BitVec 3 := 0b100#3

/-- COND's value for ZERO: bit 1 (R10, R30; log 2). -/
def condZ : BitVec 3 := 0b010#3

/-- COND's value for POSITIVE: bit 0 (R10, R30; log 2). -/
def condP : BitVec 3 := 0b001#3

/-- VEC_GETC (R132; log 4). -/
def vecGetc : Byte := 0x20#8
/-- VEC_OUT (R132; log 4). -/
def vecOut : Byte := 0x21#8
/-- The PUTS vector (R9, R132). -/
def vecPuts : Byte := 0x22#8
/-- VEC_IN (R132; log 4). -/
def vecIn : Byte := 0x23#8
/-- VEC_PUTSP (R132; log 4). -/
def vecPutsp : Byte := 0x24#8
/-- The HALT vector (R9, R132). -/
def vecHalt : Byte := 0x25#8

/-- The INITIAL_PC that `State.reset` takes. DESIGN CHOICE: R11 leaves it open; x3000 is the origin of
every program of spec/95_test_vectors.md (log 5). `State.start` takes any value. -/
def resetPc : Word := 0x3000#16

/-- IN_PROMPT, the byte string IN writes before it reads (R11, R137). FREE VALUE: any finite byte
string, so no proof can see what it is (log 12). -/
opaque inPrompt : List Byte

/-- The answer of the `n`-th `KeyAvailable()` draw that State's own list of answers does not give
(R165, K4). FREE VALUE (log 8). -/
opaque keyDraw : Nat → Bool

/-- The `n`-th event of an endless input that State does not list (R11, R165, the spec's decision D16). FREE
VALUE: any infinite sequence of events (log 8). -/
opaque keyEvent : Nat → KeyEvent

end Sys2Proof.Config
end

