-- ==== Sys2Proof/Syntax.lean ====
section
/-! DEFINITION. The instructions: one constructor for each of the 25 rows of spec/opcode_table.json. -/

namespace Sys2Proof

/-- The eight general-purpose registers R0 to R7 (R22). -/
inductive Reg where
  | r0 | r1 | r2 | r3 | r4 | r5 | r6 | r7
  deriving DecidableEq, Repr

/-- The instructions, with the operand fields of spec/30_encoding.md R78 to R88. Signed fields are kept
at their encoded width; their extension is part of the meaning (R89). -/
inductive Instr where
  /-- BR: branch when `cond` (ir[11:9], the bits n z p) meets COND (R126). -/
  | br (cond : BitVec 3) (pcOffset9 : BitVec 9)
  /-- ADD, register mode (R114). -/
  | addReg (dr sr1 sr2 : Reg)
  /-- ADD, immediate mode (R115). -/
  | addImm (dr sr1 : Reg) (imm5 : BitVec 5)
  /-- LD: PC-relative load (R119). -/
  | ld (dr : Reg) (pcOffset9 : BitVec 9)
  /-- ST: PC-relative store (R123). -/
  | st (sr : Reg) (pcOffset9 : BitVec 9)
  /-- JSR: PC-relative subroutine jump (R128). -/
  | jsr (pcOffset11 : BitVec 11)
  /-- JSRR: subroutine jump through a register (R129). -/
  | jsrr (base : Reg)
  /-- AND, register mode (R116). -/
  | andReg (dr sr1 sr2 : Reg)
  /-- AND, immediate mode (R117). -/
  | andImm (dr sr1 : Reg) (imm5 : BitVec 5)
  /-- LDR: base + offset load (R121). -/
  | ldr (dr base : Reg) (offset6 : BitVec 6)
  /-- STR: base + offset store (R125). -/
  | str (sr base : Reg) (offset6 : BitVec 6)
  /-- RTI: reserved opcode x8 (R143). -/
  | rti
  /-- NOT (R118). -/
  | not (dr sr : Reg)
  /-- LDI: indirect load (R120). -/
  | ldi (dr : Reg) (pcOffset9 : BitVec 9)
  /-- STI: indirect store (R124). -/
  | sti (sr : Reg) (pcOffset9 : BitVec 9)
  /-- JMP; RET is `jmp r7` (R127). -/
  | jmp (base : Reg)
  /-- RES: reserved opcode xD (R144). -/
  | res
  /-- LEA: load effective address (R122). -/
  | lea (dr : Reg) (pcOffset9 : BitVec 9)
  /-- TRAP x20: read a character (R134). -/
  | trapGetc
  /-- TRAP x21: write a character (R135). -/
  | trapOut
  /-- TRAP x22: write a string (R136). -/
  | trapPuts
  /-- TRAP x23: prompt, read and echo a character (R137). -/
  | trapIn
  /-- TRAP x24: write a packed string (R138). -/
  | trapPutsp
  /-- TRAP x25: end the run (R139). -/
  | trapHalt
  /-- TRAP with any other vector (R140). -/
  | trap (vector : Byte)
  deriving DecidableEq, Repr

end Sys2Proof
end

