-- ==== Sys2Proof/WellFormed.lean ====
section
/-! DEFINITION. Which terms of `Instr` are instructions of the hardware. Operand fields carry their widths in their types; what is left to check is that the row `trap` holds no vector of the six service rows above it (spec/opcode_table.json: "any vector not matched by the six rows above"; R132, R140). -/

namespace Sys2Proof

/-- The six recognized trap vectors (R95, R132). -/
def serviceVectors : List Byte :=
  [Config.vecGetc, Config.vecOut, Config.vecPuts, Config.vecIn, Config.vecPutsp, Config.vecHalt]

/-- Whether a vector is one of the six services' (R132). -/
def isServiceVector (v : Byte) : Bool := serviceVectors.contains v

/-- An instruction some word of the hardware decodes to. -/
def WellFormed : Instr → Bool
  | .br _ _ => true
  | .addReg _ _ _ => true
  | .addImm _ _ _ => true
  | .ld _ _ => true
  | .st _ _ => true
  | .jsr _ => true
  | .jsrr _ => true
  | .andReg _ _ _ => true
  | .andImm _ _ _ => true
  | .ldr _ _ _ => true
  | .str _ _ _ => true
  | .rti => true
  | .not _ _ => true
  | .ldi _ _ => true
  | .sti _ _ => true
  | .jmp _ => true
  | .res => true
  | .lea _ _ => true
  | .trapGetc => true
  | .trapOut => true
  | .trapPuts => true
  | .trapIn => true
  | .trapPutsp => true
  | .trapHalt => true
  | .trap v => !isServiceVector v

end Sys2Proof
end

