-- ==== Sys2Proof/Decode.lean ====
section
/-! DEFINITION. Decoding a fetched word (spec/30_encoding.md), total on all 65536 words (R75), and the encoder. Bits outside the named fields are not read (R94; log 14): the encoder writes them as zeros. -/

namespace Sys2Proof

/-- The register a 3-bit field names (R22, R90). -/
def Reg.ofBits (b : BitVec 3) : Reg :=
  match b.toNat with
  | 0 => .r0
  | 1 => .r1
  | 2 => .r2
  | 3 => .r3
  | 4 => .r4
  | 5 => .r5
  | 6 => .r6
  | _ => .r7

/-- The 3-bit field of a register (R22, R90). -/
def Reg.toBits : Reg → BitVec 3
  | .r0 => 0#3
  | .r1 => 1#3
  | .r2 => 2#3
  | .r3 => 3#3
  | .r4 => 4#3
  | .r5 => 5#3
  | .r6 => 6#3
  | .r7 => 7#3

/-- The slice ir[11:9] as a register: dr, or sr of a store (R78 to R83). -/
def regA (ir : Word) : Reg := Reg.ofBits (ir.extractLsb' 9 3)

/-- The slice ir[8:6] as a register: sr1, sr or base (R78 to R86). -/
def regB (ir : Word) : Reg := Reg.ofBits (ir.extractLsb' 6 3)

/-- The slice ir[2:0] as a register: sr2 (R78). -/
def regC (ir : Word) : Reg := Reg.ofBits (ir.extractLsb' 0 3)

/-- TRAP's rows: the six services first, any other vector last (R131, R132). -/
def decodeTrap (vector : Byte) : Instr :=
  if vector = Config.vecGetc then .trapGetc
  else if vector = Config.vecOut then .trapOut
  else if vector = Config.vecPuts then .trapPuts
  else if vector = Config.vecIn then .trapIn
  else if vector = Config.vecPutsp then .trapPutsp
  else if vector = Config.vecHalt then .trapHalt
  else .trap vector

/-- The instruction a word is (R74 to R76, R78 to R88, R91). The opcode is ir[15:12] (log 1). -/
def decode (ir : Word) : Instr :=
  match (ir.extractLsb' 12 4).toNat with
  | 0x0 => .br (ir.extractLsb' 9 3) (ir.extractLsb' 0 9)
  | 0x1 => if ir.getLsbD 5 then .addImm (regA ir) (regB ir) (ir.extractLsb' 0 5)
           else .addReg (regA ir) (regB ir) (regC ir)
  | 0x2 => .ld (regA ir) (ir.extractLsb' 0 9)
  | 0x3 => .st (regA ir) (ir.extractLsb' 0 9)
  | 0x4 => if ir.getLsbD 11 then .jsr (ir.extractLsb' 0 11) else .jsrr (regB ir)
  | 0x5 => if ir.getLsbD 5 then .andImm (regA ir) (regB ir) (ir.extractLsb' 0 5)
           else .andReg (regA ir) (regB ir) (regC ir)
  | 0x6 => .ldr (regA ir) (regB ir) (ir.extractLsb' 0 6)
  | 0x7 => .str (regA ir) (regB ir) (ir.extractLsb' 0 6)
  | 0x8 => .rti
  | 0x9 => .not (regA ir) (regB ir)
  | 0xA => .ldi (regA ir) (ir.extractLsb' 0 9)
  | 0xB => .sti (regA ir) (ir.extractLsb' 0 9)
  | 0xC => .jmp (regB ir)
  | 0xD => .res
  | 0xE => .lea (regA ir) (ir.extractLsb' 0 9)
  | _ => decodeTrap (ir.extractLsb' 0 8)

/-- The formats OP-R, OP-I, NOT, BO6, JMP and JR: two register fields and six low bits (R78, R79, R80, R83,
R84, R86). -/
def formatTwoReg (op : BitVec 4) (a b : BitVec 3) (low : BitVec 6) : Word := op ++ a ++ b ++ low

/-- The formats BR and PC9: a three-bit field and a nine-bit offset (R81, R82). -/
def formatPc9 (op : BitVec 4) (a : BitVec 3) (off : BitVec 9) : Word := op ++ a ++ off

/-- The format J11: the mode bit and an eleven-bit offset (R85). -/
def formatJ11 (op : BitVec 4) (mode : BitVec 1) (off : BitVec 11) : Word := op ++ mode ++ off

/-- The format TRAP (R87). -/
def formatTrap (vector : Byte) : Word := 0xF#4 ++ 0x0#4 ++ vector

/-- The format NONE (R88). -/
def formatNone (op : BitVec 4) : Word := op ++ 0#12

/-- The six low bits of OP-R: mode 0, two ignored bits, sr2 (R78). -/
def lowOpR (sr2 : Reg) : BitVec 6 := 0b0#1 ++ (0b00#2 ++ sr2.toBits)

/-- The six low bits of OP-I: mode 1, imm5 (R79). -/
def lowOpI (imm5 : BitVec 5) : BitVec 6 := 0b1#1 ++ imm5

/-- The word of an instruction, ignored bits zero (R77 to R88, R94). -/
def encode : Instr → Word
  | .br cond off => formatPc9 0x0#4 cond off
  | .addReg dr sr1 sr2 => formatTwoReg 0x1#4 dr.toBits sr1.toBits (lowOpR sr2)
  | .addImm dr sr1 imm => formatTwoReg 0x1#4 dr.toBits sr1.toBits (lowOpI imm)
  | .ld dr off => formatPc9 0x2#4 dr.toBits off
  | .st sr off => formatPc9 0x3#4 sr.toBits off
  | .jsr off => formatJ11 0x4#4 0b1#1 off
  | .jsrr base => formatTwoReg 0x4#4 0b000#3 base.toBits 0#6
  | .andReg dr sr1 sr2 => formatTwoReg 0x5#4 dr.toBits sr1.toBits (lowOpR sr2)
  | .andImm dr sr1 imm => formatTwoReg 0x5#4 dr.toBits sr1.toBits (lowOpI imm)
  | .ldr dr base off => formatTwoReg 0x6#4 dr.toBits base.toBits off
  | .str sr base off => formatTwoReg 0x7#4 sr.toBits base.toBits off
  | .rti => formatNone 0x8#4
  | .not dr sr => formatTwoReg 0x9#4 dr.toBits sr.toBits 0#6
  | .ldi dr off => formatPc9 0xA#4 dr.toBits off
  | .sti sr off => formatPc9 0xB#4 sr.toBits off
  | .jmp base => formatTwoReg 0xC#4 0b000#3 base.toBits 0#6
  | .res => formatNone 0xD#4
  | .lea dr off => formatPc9 0xE#4 dr.toBits off
  | .trapGetc => formatTrap Config.vecGetc
  | .trapOut => formatTrap Config.vecOut
  | .trapPuts => formatTrap Config.vecPuts
  | .trapIn => formatTrap Config.vecIn
  | .trapPutsp => formatTrap Config.vecPutsp
  | .trapHalt => formatTrap Config.vecHalt
  | .trap v => formatTrap v

/-- The mask of an instruction's row in spec/opcode_table.json: the bits that select the row. -/
def rowMask : Instr → Word
  | .br _ _ => 0xF000#16
  | .addReg _ _ _ => 0xF020#16
  | .addImm _ _ _ => 0xF020#16
  | .ld _ _ => 0xF000#16
  | .st _ _ => 0xF000#16
  | .jsr _ => 0xF800#16
  | .jsrr _ => 0xF800#16
  | .andReg _ _ _ => 0xF020#16
  | .andImm _ _ _ => 0xF020#16
  | .ldr _ _ _ => 0xF000#16
  | .str _ _ _ => 0xF000#16
  | .rti => 0xF000#16
  | .not _ _ => 0xF000#16
  | .ldi _ _ => 0xF000#16
  | .sti _ _ => 0xF000#16
  | .jmp _ => 0xF000#16
  | .res => 0xF000#16
  | .lea _ _ => 0xF000#16
  | .trapGetc => 0xF0FF#16
  | .trapOut => 0xF0FF#16
  | .trapPuts => 0xF0FF#16
  | .trapIn => 0xF0FF#16
  | .trapPutsp => 0xF0FF#16
  | .trapHalt => 0xF0FF#16
  | .trap _ => 0xF000#16

/-- The match of an instruction's row in spec/opcode_table.json: the values of the bits `rowMask` keeps. -/
def rowMatch : Instr → Word
  | .br _ _ => 0x0000#16
  | .addReg _ _ _ => 0x1000#16
  | .addImm _ _ _ => 0x1020#16
  | .ld _ _ => 0x2000#16
  | .st _ _ => 0x3000#16
  | .jsr _ => 0x4800#16
  | .jsrr _ => 0x4000#16
  | .andReg _ _ _ => 0x5000#16
  | .andImm _ _ _ => 0x5020#16
  | .ldr _ _ _ => 0x6000#16
  | .str _ _ _ => 0x7000#16
  | .rti => 0x8000#16
  | .not _ _ => 0x9000#16
  | .ldi _ _ => 0xA000#16
  | .sti _ _ => 0xB000#16
  | .jmp _ => 0xC000#16
  | .res => 0xD000#16
  | .lea _ _ => 0xE000#16
  | .trapGetc => 0xF020#16
  | .trapOut => 0xF021#16
  | .trapPuts => 0xF022#16
  | .trapIn => 0xF023#16
  | .trapPutsp => 0xF024#16
  | .trapHalt => 0xF025#16
  | .trap _ => 0xF000#16

/-- The bits of an instruction's word that no field uses (the table of R94). -/
def ignoredBits : Instr → Word
  | .br _ _ => 0x0000#16
  | .addReg _ _ _ => 0x0018#16
  | .addImm _ _ _ => 0x0000#16
  | .ld _ _ => 0x0000#16
  | .st _ _ => 0x0000#16
  | .jsr _ => 0x0000#16
  | .jsrr _ => 0x063F#16
  | .andReg _ _ _ => 0x0018#16
  | .andImm _ _ _ => 0x0000#16
  | .ldr _ _ _ => 0x0000#16
  | .str _ _ _ => 0x0000#16
  | .rti => 0x0FFF#16
  | .not _ _ => 0x003F#16
  | .ldi _ _ => 0x0000#16
  | .sti _ _ => 0x0000#16
  | .jmp _ => 0x0E3F#16
  | .res => 0x0FFF#16
  | .lea _ _ => 0x0000#16
  | .trapGetc => 0x0F00#16
  | .trapOut => 0x0F00#16
  | .trapPuts => 0x0F00#16
  | .trapIn => 0x0F00#16
  | .trapPutsp => 0x0F00#16
  | .trapHalt => 0x0F00#16
  | .trap _ => 0x0F00#16

/-- The word that holds an instruction of `nbits` bits numbered as spec/opcode_table.json numbers them:
every instruction is one word (R73), and bits at or above `nbits` are 0. -/
def tableWord (nbits w : Nat) : Word := BitVec.ofNat 16 (w % 2 ^ nbits)

/-- The decoder's reading of an opcode-table row's word. No instruction is longer than one word (R73,
R98), so a row of more than 16 bits is refused. -/
def decodeTableWord (nbits w : Nat) : Option Instr :=
  if nbits ≤ 16 then some (decode (tableWord nbits w)) else none

end Sys2Proof
end

