-- ==== Sys2Proof/Machine/State.lean ====
section
/-! DEFINITION. The machine's state (spec/10_state.md), the reasons a step stops, and the state after reset. -/

namespace Sys2Proof.Machine

/-- The values of R0 to R7 (R22). -/
structure RegFile where
  r0 : Word
  r1 : Word
  r2 : Word
  r3 : Word
  r4 : Word
  r5 : Word
  r6 : Word
  r7 : Word
  deriving DecidableEq, Repr

/-- MEM: 65536 words by word address (R34, R48), as the list of the words that are not x0000, addresses
strictly rising. Word cells, not bytes: no access sees part of a word (R58; log 7). -/
abbrev Memory := List (Nat × Word)

/-- The canonical form: addresses below 65536 and strictly rising, no word x0000 listed. -/
def Memory.wf : Memory → Bool
  | [] => true
  | [c] => decide (c.1 < 65536) && c.2 != 0#16
  | c :: d :: m => decide (c.1 < d.1) && c.2 != 0#16 && Memory.wf (d :: m)

/-- Where a keyboard read failed (R148). -/
inductive DeviceSite where
  /-- The GETC service (R134). -/
  | getc
  /-- The IN service (R137). -/
  | inSvc
  /-- A KBSR poll (R56). -/
  | poll
  deriving DecidableEq, Repr

/-- The two causes of an ExecutionFault, with what each records (R147). -/
inductive ExecutionFault where
  /-- RTI or RES was executed (R143, R144). -/
  | reservedOpcode (opcode : BitVec 4) (addr : Word)
  /-- TRAP with a vector of no service (R140). -/
  | unknownTrapVector (vector : Byte) (addr : Word)
  deriving DecidableEq, Repr

/-- RUN, the run state (R41), with the details R147 and R148 record. Only `running` takes a step. -/
inductive RunState where
  | running
  | halted
  | fault (cause : ExecutionFault)
  | deviceError (site : DeviceSite) (addr : Word)
  | aborted
  deriving DecidableEq, Repr

/-- The service the engine is still inside of at the end of a step. GETC and IN wait there until the host
supplies input (R167; log 10); PUTS and PUTSP wait for nothing: their loop, at pointer `a`, has not ended yet,
and may never end (R136, R138, R172; log 15). -/
inductive Hold where
  | getc
  | inSvc
  | puts (a : Word)
  | putsp (a : Word)
  deriving DecidableEq, Repr

/-- What follows the listed events of the input, which may be infinite (R165; log 8). -/
inductive Further where
  /-- Nothing, until the host supplies an event. -/
  | ends
  /-- The key `b`, over and over without end. -/
  | again (b : Byte)
  /-- An endless sequence of free events: `Config.keyEvent n`, `Config.keyEvent (n + 1)` and so on. -/
  | free (n : Nat)
  deriving DecidableEq, Repr

/-- The keyboard (R165; log 8). -/
structure Keyboard where
  /-- The input's next events, next first. -/
  events : List KeyEvent
  /-- What follows them. -/
  further : Further
  /-- The answers of the next `KeyAvailable()` draws, next first; beyond them a draw is free. -/
  answers : List Bool
  /-- How many draws were taken: the argument of the free draw `Config.keyDraw`. The model's own. -/
  polls : Nat
  deriving DecidableEq, Repr

/-- The machine's state. The first five fields are the CORE's architectural state (R21); the rest is the
host's side, as far as a step reads or writes it (R42, R164 to R167). -/
structure State where
  /-- R0 to R7 (R22). -/
  regs : RegFile
  /-- PC (R26); the incremented PC while an instruction executes (R27). -/
  pc : Word
  /-- COND, one-hot: N, Z, P are bits 2, 1, 0 (R29, R30). -/
  cond : BitVec 3
  /-- MEM, KBSR and KBDR among its cells (R34, R35). -/
  mem : Memory
  /-- RUN (R41). -/
  run : RunState
  /-- The service the engine is still inside of, if any (R136, R138, R167). -/
  hold : Option Hold
  /-- The keyboard (R165). -/
  keyboard : Keyboard
  /-- The console's bytes, first written first (R166). -/
  console : List Byte
  /-- How many leading console bytes a flush has promised delivered (R166; log 13). The model's own. -/
  flushed : Nat
  /-- When the host's signal arrives: before the step this many steps ahead, or never (R154; log 11). -/
  signalAt : Option Nat
  deriving DecidableEq, Repr

/-- Why no step is taken. The outcomes of R150, and the one the launch adds. -/
inductive Fault where
  /-- Raised by `step` where RUN is HALTED: the run has ended normally (R146). Safe. -/
  | halted
  /-- Raised by `step` where RUN is FAULT: the run ended in an ExecutionFault (R146, R147). Safe. -/
  | executionFault (cause : ExecutionFault)
  /-- Raised by `step` where RUN is DEVICE_ERROR (R146, R148). Safe. -/
  | deviceError (site : DeviceSite) (addr : Word)
  /-- Raised by `step` where RUN is ABORTED (R146, R154). Safe. -/
  | aborted
  /-- Raised by `launch` only: an image did not load and the run does not start (R149, R178). Safe. -/
  | loadError
  /-- Raised by `launch` only: no image argument, the run does not start (R168, R179). Safe. -/
  | noImage
  deriving DecidableEq, Repr

/-- Why an instruction has no meaning. -/
inductive Refusal where
  /-- An instruction rejected by name in `exec`'s arm; no arm does so. Safe. -/
  | notModelled (mnemonic : String)
  deriving DecidableEq, Repr

/-- The registers at reset: all x0000 (R44, R45). -/
def RegFile.zero : RegFile := ⟨0#16, 0#16, 0#16, 0#16, 0#16, 0#16, 0#16, 0#16⟩

/-- The keyboard with no input and no answer given in advance. -/
def Keyboard.silent : Keyboard := { events := [], further := .ends, answers := [], polls := 0 }

/-- The state at the first fetch (R45, R46, R173), for any value of the open parameters INITIAL_PC,
MEM0 and KEYBOARD (R11) and any arrival of the signal (R154). -/
def State.start (initialPc : Word) (mem0 : Memory) (keyboard : Keyboard) (signalAt : Option Nat) :
    State where
  regs := RegFile.zero
  pc := initialPc
  cond := Config.condZ
  mem := mem0
  run := .running
  hold := none
  keyboard := keyboard
  console := []
  flushed := 0
  signalAt := signalAt

/-- The machine right after reset, nothing loaded: INITIAL_PC is `Config.resetPc` (log 5), memory is
all zeros (R47; log 6), no input pending (log 8), no signal on its way (log 11). -/
def State.reset : State := State.start Config.resetPc [] Keyboard.silent none

end Sys2Proof.Machine
end

