-- ==== Sys2Proof/Machine/Ops.lean ====
section
/-! DEFINITION. The named operations over registers, memory, keyboard, console and run state: MemRead and MemWrite (spec/20_memory.md), the host primitives (R18), terminal events and TRAP's entry, and the fetch. -/

namespace Sys2Proof.Machine

/-! ## Registers -/

/-- A general-purpose register of the file (R22). -/
def RegFile.get (f : RegFile) : Reg → Word
  | .r0 => f.r0
  | .r1 => f.r1
  | .r2 => f.r2
  | .r3 => f.r3
  | .r4 => f.r4
  | .r5 => f.r5
  | .r6 => f.r6
  | .r7 => f.r7

/-- The file with one register written (R22). -/
def RegFile.set (f : RegFile) (r : Reg) (v : Word) : RegFile :=
  match r with
  | .r0 => { f with r0 := v }
  | .r1 => { f with r1 := v }
  | .r2 => { f with r2 := v }
  | .r3 => { f with r3 := v }
  | .r4 => { f with r4 := v }
  | .r5 => { f with r5 := v }
  | .r6 => { f with r6 := v }
  | .r7 => { f with r7 := v }

/-- `x[r]` (R16). -/
def State.reg (s : State) (r : Reg) : Word := s.regs.get r

/-- `x[r] <- v` (R16). No register is hardwired (R22). -/
def State.setReg (s : State) (r : Reg) (v : Word) : State := { s with regs := s.regs.set r v }

/-- `pc <- t` (R16). -/
def State.setPc (s : State) (t : Word) : State := { s with pc := t }

/-- COND's write (R31). -/
def State.setCond (s : State) (c : BitVec 3) : State := { s with cond := c }

/-! ## Memory -/

/-- The word at an address; an address with no entry holds x0000 (R34, R47). -/
def Memory.readAt : Memory → Nat → Word
  | [], _ => 0#16
  | c :: m, a => if c.1 = a then c.2 else Memory.readAt m a

/-- The word at a word address (R48). -/
def Memory.read (m : Memory) (a : Word) : Word := Memory.readAt m a.toNat

/-- The memory without any entry at an address. -/
def Memory.eraseAt : Memory → Nat → Memory
  | [], _ => []
  | c :: m, a => if c.1 = a then Memory.eraseAt m a else c :: Memory.eraseAt m a

/-- The memory with an entry put in front of the first one at a higher address. -/
def Memory.insertAt : Memory → Nat → Word → Memory
  | [], a, v => [(a, v)]
  | c :: m, a, v => if a < c.1 then (a, v) :: c :: m else c :: Memory.insertAt m a v

/-- The memory with the word at an address replaced, in canonical form: x0000 is not listed. -/
def Memory.writeAt (m : Memory) (a : Nat) (v : Word) : Memory :=
  if v = 0#16 then m.eraseAt a else (m.eraseAt a).insertAt a v

/-- The memory with the word at a word address replaced. -/
def Memory.write (m : Memory) (a : Word) (v : Word) : Memory := Memory.writeAt m a.toNat v

/-- `MemWrite(a, 16, v)`: a direct store at every address, with no other effect (R51). -/
def State.memWrite (s : State) (a v : Word) : State := { s with mem := s.mem.write a v }

/-! ## Keyboard -/

/-- What a blocking `ReadKey()` comes to (R165). -/
inductive KeyResult where
  /-- A key byte was read. -/
  | key (k : Byte) (s : State)
  /-- The read failed. -/
  | failed (s : State)
  /-- There is no next event: the read waits (R167). -/
  | waits
  deriving DecidableEq, Repr

/-- The input's next event, and the keyboard without it; none where the input has no next event (R165). -/
def Keyboard.next (k : Keyboard) : Option (KeyEvent × Keyboard) :=
  match k.events with
  | e :: rest => some (e, { k with events := rest })
  | [] =>
    match k.further with
    | .ends => none
    | .again b => some (.key b, k)
    | .free n => some (Config.keyEvent n, { k with further := .free (n + 1) })

/-- The keyboard replaced. -/
def State.setKeyboard (s : State) (k : Keyboard) : State := { s with keyboard := k }

/-- `ReadKey()`: removes the next event of the input (R165). -/
def State.readKey (s : State) : KeyResult :=
  match s.keyboard.next with
  | none => .waits
  | some (.key b, k) => .key b (s.setKeyboard k)
  | some (.failure, k) => .failed (s.setKeyboard k)

/-- The next draw: State's own answer where it holds one, else the free value (R165; log 8). -/
def Keyboard.draw (k : Keyboard) : Bool :=
  match k.answers with
  | [] => Config.keyDraw k.polls
  | b :: _ => b

/-- The answer of `KeyAvailable()`: a draw that may be true only if the input has a next event (R165). -/
def State.keyAvailable (s : State) : Bool :=
  match s.keyboard.next with
  | none => false
  | some _ => s.keyboard.draw

/-- The keyboard after a draw. -/
def Keyboard.afterDraw (k : Keyboard) : Keyboard :=
  { k with answers := k.answers.tail, polls := k.polls + 1 }

/-- The state after a `KeyAvailable()`: its draw has been taken. -/
def State.afterQuery (s : State) : State := s.setKeyboard s.keyboard.afterDraw

/-! ## MemRead -/

/-- What a MemRead comes to. -/
inductive ReadResult where
  /-- The word read, and the state after the read's side effect. -/
  | value (v : Word) (s : State)
  /-- The poll's ReadKey failed (R56). -/
  | failed (s : State)
  deriving DecidableEq, Repr

/-- The status word a poll stores when it finds a key (R36). -/
def statusReady : Word := 0x8000#16

/-- The status word a poll stores when it finds none (R36). -/
def statusIdle : Word := 0x0000#16

/-- The poll of a KBSR read (R53): whole words are stored, and the read returns the status just stored.
A failing ReadKey leaves KBSR and KBDR as they were (R56). `waits` cannot follow a true answer. -/
def State.pollKeyboard (s : State) : ReadResult :=
  match s.keyAvailable, s.afterQuery.readKey with
  | true, .key k u =>
    .value statusReady
      ((u.memWrite Config.kbdrAddr (k.setWidth 16)).memWrite Config.kbsrAddr statusReady)
  | true, .failed u => .failed u
  | _, _ => .value statusIdle (s.afterQuery.memWrite Config.kbsrAddr statusIdle)

/-- `MemRead(a, 16)`: plain at every address but KBSR_ADDR (R52), where it polls (R53). -/
def State.memRead (s : State) (a : Word) : ReadResult :=
  if a = Config.kbsrAddr then s.pollKeyboard else .value (s.mem.read a) s

/-! ## Console -/

/-- `ConsoleOut(b)` for each byte in order (R18, R166). -/
def State.consoleOut (s : State) (bs : List Byte) : State := { s with console := s.console ++ bs }

/-- `ConsoleFlush()`: every byte so far is promised delivered; the sequence is unchanged (R166). -/
def State.consoleFlush (s : State) : State := { s with flushed := s.console.length }

/-! ## Holds -/

/-- The service the engine is inside of, set or left (R136, R138, R167). -/
def State.setHold (s : State) (h : Option Hold) : State := { s with hold := h }

/-! ## Terminal events and TRAP's entry -/

/-- A terminal event (R19, R112): RUN takes its value, nothing else of the CORE changes, and the engine
is inside no service any more. There is no handler, no saved state and no return (R157, R158). -/
def State.endRun (s : State) (r : RunState) : State := { s with run := r, hold := none }

/-- The address of the executing instruction, pc being the incremented PC (R27, R147). -/
def State.instrAddr (s : State) : Word := s.pc - 1#16

/-- `raise ExecutionFault(ReservedOpcode, opcode, addr = pc - 1)` (R143, R144, R147). -/
def State.raiseReservedOpcode (s : State) (opcode : BitVec 4) : State :=
  s.endRun (.fault (.reservedOpcode opcode s.instrAddr))

/-- `raise ExecutionFault(UnknownTrapVector, vector, addr = pc - 1)` (R140, R147). -/
def State.raiseUnknownVector (s : State) (vector : Byte) : State :=
  s.endRun (.fault (.unknownTrapVector vector s.instrAddr))

/-- `raise DeviceError`, recording the site and the address of the instruction (R148). -/
def State.raiseDeviceError (s : State) (site : DeviceSite) (addr : Word) : State :=
  s.endRun (.deviceError site addr)

/-- A KBSR poll failed inside an executing instruction (R56, R148). -/
def State.pollFailed (s : State) : State := s.raiseDeviceError .poll s.instrAddr

/-- TRAP's entry, the one entry that saves state: `x[7] <- pc` (R131, R157). COND is not updated (R32). -/
def State.trapEntry (s : State) : State := s.setReg .r7 s.pc

/-! ## The engine's cycle -/

/-- The state in which a fetched instruction executes: pc is the incremented PC (R27, R103). -/
def State.advancePc (s : State) : State := s.setPc (s.pc + 1#16)

/-- A fetch that fails in KBSR's poll ends the run before the increment (R103, R155): the instruction's
address is pc itself. -/
def State.fetchFailed (s : State) : State := s.raiseDeviceError .poll s.pc

/-- `ir <- MemRead(pc, 16)` (R103, R57). -/
def State.fetch (s : State) : ReadResult := s.memRead s.pc

/-- The host's signal ends the run (R154). The service the engine is inside of is abandoned: a ReadKey never
returns (R156), a string's loop goes no further (log 11). -/
def State.abort (s : State) : State := s.endRun .aborted

/-- The signal's countdown at the start of a step (log 11). -/
def State.tick (s : State) : State := { s with signalAt := s.signalAt.map (· - 1) }

/-- The outcome of a run that has ended (R146, R150): the fault with which `step` answers. -/
def endedFault : RunState → Option Fault
  | .running => none
  | .halted => some .halted
  | .fault c => some (.executionFault c)
  | .deviceError site addr => some (.deviceError site addr)
  | .aborted => some .aborted

/-! ## What the host may do between steps -/

/-- The host supplies an input event, after those listed (R165, R167). -/
def State.supplyEvent (s : State) (e : KeyEvent) : State :=
  s.setKeyboard { s.keyboard with events := s.keyboard.events ++ [e] }

/-- The host sends the signal: it is taken before the next step (R154). -/
def State.sendSignal (s : State) : State := { s with signalAt := some 0 }

end Sys2Proof.Machine
end

