-- ==== Sys2Proof/Machine/Operands.lean ====
section
/-! DEFINITION. Every operand form: sign and zero extension (spec/00_scope.md R15), the immediates of spec/30_encoding.md R89, the effective addresses, and the bytes a service takes out of a word (spec/20_memory.md R61). -/

namespace Sys2Proof.Machine

/-- `sext_N(f)`: the sign bit is copied into the upper bits (R15). -/
def sext {n : Nat} (f : BitVec n) : Word := f.signExtend 16

/-- `zext_16(k)`: the upper bits are zero (R15). -/
def zext (k : Byte) : Word := k.setWidth 16

/-- `pc + sext(PCoffset)`, PC-relative, pc being the incremented PC (R27, R62, R92). -/
def State.pcRel {n : Nat} (s : State) (offset : BitVec n) : Word := s.pc + sext offset

/-- `x[base] + sext_6(offset6)`, modulo 2^16 (R62). -/
def State.baseRel (s : State) (base : Reg) (offset6 : BitVec 6) : Word := s.reg base + sext offset6

/-- Bits [7:0] of a word (R61). -/
def lowByte (w : Word) : Byte := w.extractLsb' 0 8

/-- Bits [15:8] of a word (R61). -/
def highByte (w : Word) : Byte := w.extractLsb' 8 8

/-- The bytes PUTS writes for one word (R136). -/
def putsBytes (w : Word) : List Byte := [lowByte w]

/-- The bytes PUTSP writes for one word: the low byte always, the high byte if nonzero (R138). -/
def putspBytes (w : Word) : List Byte :=
  if highByte w = 0#8 then [lowByte w] else [lowByte w, highByte w]

end Sys2Proof.Machine
end

