-- ==== Sys2Proof/Machine/Flags.lean ====
section
/-! DEFINITION. The flag update and BR's test (spec/40_engine.md R106, R107; spec/44_control.md R126). -/

namespace Sys2Proof.Machine

/-- The flag of a written value (R106). -/
def condOf (v : Word) : BitVec 3 :=
  if v = 0#16 then Config.condZ else if v.msb then Config.condN else Config.condP

/-- `setcc(v)` (R106). -/
def State.setcc (s : State) (v : Word) : State := s.setCond (condOf v)

/-- `x[dr] <- v; setcc(v)`: the write of every instruction that updates the flags (R107). -/
def State.writeDest (s : State) (dr : Reg) (v : Word) : State := (s.setReg dr v).setcc v

/-- BR's test: `(ir[11:9] & COND) != 0b000` (R126). -/
def State.condMet (s : State) (cond : BitVec 3) : Bool := (cond &&& s.cond) != 0#3

end Sys2Proof.Machine
end

