-- ==== Sys2Proof/Machine/Control.lean ====
section
/-! DEFINITION. Control transfer: BR, JMP, JSR, JSRR (spec/44_control.md). None updates COND. -/

namespace Sys2Proof.Machine

/-- BR: `cond` 000 is never taken and only lets pc stand at the next word (R126, R96). -/
def execBr (cond : BitVec 3) (pcOffset9 : BitVec 9) (s : State) : Host.Outcome State Fault Refusal :=
  .next (if s.condMet cond then s.setPc (s.pcRel pcOffset9) else s)

/-- JMP (R127). -/
def execJmp (base : Reg) (s : State) : Host.Outcome State Fault Refusal :=
  .next (s.setPc (s.reg base))

/-- `x[7] <- pc`, the link of JSR and JSRR, without a flag update (R32, R128, R129). -/
def State.linkPc (s : State) : State := s.setReg .r7 s.pc

/-- JSR (R128). -/
def execJsr (pcOffset11 : BitVec 11) (s : State) : Host.Outcome State Fault Refusal :=
  .next (s.linkPc.setPc (s.pcRel pcOffset11))

/-- JSRR: the base is read after the link write, so JSRR R7 continues at the next word (R129). -/
def execJsrr (base : Reg) (s : State) : Host.Outcome State Fault Refusal :=
  .next (s.linkPc.setPc (s.linkPc.reg base))

end Sys2Proof.Machine
end

