-- ==== Sys2Proof/Machine/Load.lean ====
section
/-! DEFINITION. The loads LD, LDI, LDR and LEA (spec/42_load.md). -/

namespace Sys2Proof.Machine

/-- `v <- MemRead(ea, 16); x[dr] <- v; setcc(v)`: what LD, LDI and LDR end in. A failing poll ends the run
before the register is written (R56, R155). -/
def loadWord (dr : Reg) (ea : Word) (s : State) : Host.Outcome State Fault Refusal :=
  match s.memRead ea with
  | .value v u => .next (u.writeDest dr v)
  | .failed u => .next u.pollFailed

/-- LD (R119). -/
def execLd (dr : Reg) (pcOffset9 : BitVec 9) (s : State) : Host.Outcome State Fault Refusal :=
  loadWord dr (s.pcRel pcOffset9) s

/-- LDI: the pointer is read first, then the data (R120); a failure of the first read skips the second. -/
def execLdi (dr : Reg) (pcOffset9 : BitVec 9) (s : State) : Host.Outcome State Fault Refusal :=
  match s.memRead (s.pcRel pcOffset9) with
  | .value ea u => loadWord dr ea u
  | .failed u => .next u.pollFailed

/-- LDR: the address is computed from the old base (R121). -/
def execLdr (dr base : Reg) (offset6 : BitVec 6) (s : State) : Host.Outcome State Fault Refusal :=
  loadWord dr (s.baseRel base offset6) s

/-- LEA: no memory access; the flags are set from the computed address (R122). -/
def execLea (dr : Reg) (pcOffset9 : BitVec 9) (s : State) : Host.Outcome State Fault Refusal :=
  .next (s.writeDest dr (s.pcRel pcOffset9))

end Sys2Proof.Machine
end

