-- ==== Sys2Proof/Machine/Reserved.lean ====
section
/-! DEFINITION. The reserved opcodes RTI and RES (spec/46_reserved.md): always an ExecutionFault, which ends the run with RUN = FAULT and pc incremented (R112, R113, R145). -/

namespace Sys2Proof.Machine

/-- RTI (R143). -/
def execRti (s : State) : Host.Outcome State Fault Refusal := .next (s.raiseReservedOpcode 0x8#4)

/-- RES (R144). -/
def execRes (s : State) : Host.Outcome State Fault Refusal := .next (s.raiseReservedOpcode 0xD#4)

end Sys2Proof.Machine
end

