-- ==== Sys2Proof/Machine/Store.lean ====
section
/-! DEFINITION. The stores ST, STI, STR (spec/43_store.md). None updates COND. -/

namespace Sys2Proof.Machine

/-- ST (R123). -/
def execSt (sr : Reg) (pcOffset9 : BitVec 9) (s : State) : Host.Outcome State Fault Refusal :=
  .next (s.memWrite (s.pcRel pcOffset9) (s.reg sr))

/-- STI: the pointer read polls at KBSR_ADDR; if that poll fails the write does not happen (R124). -/
def execSti (sr : Reg) (pcOffset9 : BitVec 9) (s : State) : Host.Outcome State Fault Refusal :=
  match s.memRead (s.pcRel pcOffset9) with
  | .value ea u => .next (u.memWrite ea (u.reg sr))
  | .failed u => .next u.pollFailed

/-- STR (R125). -/
def execStr (sr base : Reg) (offset6 : BitVec 6) (s : State) : Host.Outcome State Fault Refusal :=
  .next (s.memWrite (s.baseRel base offset6) (s.reg sr))

end Sys2Proof.Machine
end

