-- ==== Sys2Proof/Machine/Trap.lean ====
section
/-! DEFINITION. TRAP and its six services (spec/45_trap.md). Each meaning begins with `State.trapEntry` (R131); none writes pc, so execution goes on at the word after the TRAP (R133). -/

namespace Sys2Proof.Machine

/-- GETC's ReadKey and its write of R0, without a flag update (R134). With no input the engine holds
(R167); a hold is resumed here. -/
def getcRead (s : State) : Host.Outcome State Fault Refusal :=
  match s.readKey with
  | .key k u => .next ((u.setReg .r0 (zext k)).setHold none)
  | .failed u => .next (u.raiseDeviceError .getc u.instrAddr)
  | .waits => .next (s.setHold (some .getc))

/-- IN's ReadKey, echo, write of R0 and flag update (R137). With no input the engine holds (R167). -/
def inRead (s : State) : Host.Outcome State Fault Refusal :=
  match s.readKey with
  | .key k u => .next (((u.consoleOut [k]).writeDest .r0 (zext k)).setHold none)
  | .failed u => .next (u.raiseDeviceError .inSvc u.instrAddr)
  | .waits => .next (s.setHold (some .inSvc))

/-- The loop of PUTS and PUTSP (R136, R138): read a word, end at x0000, write its bytes, go on at the next
address modulo 2^16. A step reads at most `fuel` words; if the string has not ended then, the engine is still
inside the service, at the pointer it has come to, and the next step goes on with the loop (log 15). -/
def putsLoop (bytesOf : Word → List Byte) (inside : Word → Hold) (fuel : Nat) (a : Word) (s : State) :
    Host.Outcome State Fault Refusal :=
  match fuel with
  | 0 => .next (s.setHold (some (inside a)))
  | n + 1 =>
    match s.memRead a with
    | .value w u =>
      if w = 0#16 then .next (u.setHold none)
      else putsLoop bytesOf inside n (a + 1#16) (u.consoleOut (bytesOf w))
    | .failed u => .next u.pollFailed

/-- How many words one step of a string service reads at most: a lap of the address space for each listed
event of the input, and one more. Each lap reads KBSR once, and a poll that does not end the string takes an
event (R136), so a string whose input ends with the listed events ends within one step. -/
def State.stringFuel (s : State) : Nat := 65536 * (s.keyboard.events.length + 1)

/-- The loop of PUTS from pointer `a` (R136). -/
def runPuts (a : Word) (s : State) : Host.Outcome State Fault Refusal :=
  putsLoop putsBytes .puts s.stringFuel a s

/-- The loop of PUTSP from pointer `a` (R138). -/
def runPutsp (a : Word) (s : State) : Host.Outcome State Fault Refusal :=
  putsLoop putspBytes .putsp s.stringFuel a s

/-- One more turn of the service the engine is inside of (R136, R138, R167). -/
def resume (h : Hold) (s : State) : Host.Outcome State Fault Refusal :=
  match h with
  | .getc => getcRead s
  | .inSvc => inRead s
  | .puts a => runPuts a s
  | .putsp a => runPutsp a s

/-- GETC (R134). -/
def execTrapGetc (s : State) : Host.Outcome State Fault Refusal := getcRead s.trapEntry

/-- OUT (R135). -/
def execTrapOut (s : State) : Host.Outcome State Fault Refusal :=
  .next (s.trapEntry.consoleOut [lowByte (s.trapEntry.reg .r0)])

/-- PUTS (R136). -/
def execTrapPuts (s : State) : Host.Outcome State Fault Refusal :=
  runPuts (s.trapEntry.reg .r0) s.trapEntry

/-- IN: the prompt and a flush come before the read (R137). -/
def execTrapIn (s : State) : Host.Outcome State Fault Refusal :=
  inRead (s.trapEntry.consoleOut Config.inPrompt).consoleFlush

/-- PUTSP (R138). -/
def execTrapPutsp (s : State) : Host.Outcome State Fault Refusal :=
  runPutsp (s.trapEntry.reg .r0) s.trapEntry

/-- HALT (R139): flush, then RUN is HALTED. -/
def execTrapHalt (s : State) : Host.Outcome State Fault Refusal :=
  .next (s.trapEntry.consoleFlush.endRun .halted)

/-- TRAP with an unrecognized vector: R7 is written, then the ExecutionFault (R131, R140). -/
def execTrapUnknown (vector : Byte) (s : State) : Host.Outcome State Fault Refusal :=
  .next (s.trapEntry.raiseUnknownVector vector)

end Sys2Proof.Machine
end

