-- ==== Sys2Proof/Machine/Cycle.lean ====
section
/-! DEFINITION. What one turn of the engine does (spec/40_engine.md R102, R103; spec/60_exceptions.md R154, R167). -/

namespace Sys2Proof.Machine

/-- Fetch, increment pc, decode, execute (R103). A fetch that fails in KBSR's poll ends the run. -/
def fetchExec (s : State) : Host.Outcome State Fault Refusal :=
  match s.fetch with
  | .value ir u => exec (decode ir) u.advancePc
  | .failed u => .next u.fetchFailed

/-- What the engine does once the signal has not come: it goes on with the service it is inside of, or
fetches (R103, R136, R167). -/
def turn (s : State) : Host.Outcome State Fault Refusal :=
  match s.hold with
  | some h => resume h s
  | none => fetchExec s

/-- One turn of a running machine. The host's signal is taken between steps, or while the engine is inside a
service (R154; log 11). -/
def runTurn (s : State) : Host.Outcome State Fault Refusal :=
  if s.signalAt = some 0 then .next s.abort else turn s.tick

/-- The word of an opcode-table row stored where the next fetch reads, and what that fetch needs. At reset only
memory changes. Elsewhere the run is made to fetch (RUN running, no hold, no signal), and a pc at KBSR_ADDR,
whose fetch would poll over the word (R57), moves to `Config.resetPc`. Stands for the loader (log 6). -/
def State.placeWord (s : State) (nbits w : Nat) : State :=
  let pc := if s.pc = Config.kbsrAddr then Config.resetPc else s.pc
  { s with run := .running, hold := none, signalAt := none, pc := pc,
           mem := s.mem.write pc (tableWord nbits w) }

end Sys2Proof.Machine
end

