-- ==== Sys2Proof/Machine/Step.lean ====
section
/-! DEFINITION. One turn of the run loop (spec/40_engine.md R102, R103). -/

namespace Sys2Proof.Machine

/-- One step. Only RUNNING takes one (R41): a run that has ended answers its outcome as a fault (R146, R150). -/
def step (s : State) : Host.Outcome State Fault Refusal :=
  match endedFault s.run with
  | some f => .fault f
  | none => runTurn s

/-- `s` with an opcode-table row's word where `step` fetches next, so that the next step runs it. -/
def State.withFetchWord (s : State) (nbits w : Nat) : State := s.placeWord nbits w

end Sys2Proof.Machine
end

