-- ==== Sys2Proof/Machine/Loader.lean ====
section
/-! DEFINITION. The boundary before and after a run: the image format, the loader, the launch sequence (spec/70_reset_and_hazards.md R173 to R179) and the exit code (spec/60_exceptions.md R168). `step` uses none of it. -/

namespace Sys2Proof.Machine

/-- A file's big-endian words: bytes 2k and 2k+1 form (byte[2k] << 8) | byte[2k+1] (R176). An odd number
of bytes is no image (R178). -/
def imageWords : List Byte → Option (List Word)
  | [] => some []
  | [_] => none
  | hi :: lo :: rest => (imageWords rest).map (fun ws => (hi ++ lo) :: ws)

/-- Words stored at consecutive addresses (R176, R177). -/
def storeWords (m : Memory) (a : Word) : List Word → Memory
  | [] => m
  | w :: ws => storeWords (m.write a w) (a + 1#16) ws

/-- One image loaded, or `none`: LoadError. A file that cannot be read (`none`), has no origin word, has an
odd length, or has more words than fit up to xFFFF does not load (R178). -/
def loadImage (file : Option (List Byte)) (m : Memory) : Option Memory :=
  match file with
  | none => none
  | some bytes =>
    match imageWords bytes with
    | some (origin :: ws) =>
      if origin.toNat + ws.length ≤ 65536 then some (storeWords m origin ws) else none
    | _ => none

/-- The images loaded in argument order into one memory, later words replacing earlier ones (R179). -/
def loadImages (files : List (Option (List Byte))) (m : Memory) : Option Memory :=
  match files with
  | [] => some m
  | f :: fs =>
    match loadImage f m with
    | none => none
    | some m' => loadImages fs m'

/-- The launch of a run (R173, R179): the images into zeroed memory, then the state at the first fetch.
INITIAL_PC is the host's choice, normally an image's origin (R174). -/
def launch (files : List (Option (List Byte))) (initialPc : Word) (keyboard : Keyboard)
    (signalAt : Option Nat) : Host.Outcome State Fault Refusal :=
  match files with
  | [] => .fault .noImage
  | f :: fs =>
    match loadImages (f :: fs) [] with
    | none => .fault .loadError
    | some mem0 => .next (State.start initialPc mem0 keyboard signalAt)

/-- EXIT_CODES, an open parameter (R11, R168). -/
structure ExitCodes where
  executionFault : Nat
  aborted : Nat
  loadError : Nat
  noImage : Nat
  deviceError : Nat
  deriving DecidableEq, Repr

/-- R168's constraints: the four named cases distinct and nonzero, DEVICE_ERROR's nonzero. -/
def exitCodesValid (c : ExitCodes) : Bool :=
  decide ([0, c.executionFault, c.aborted, c.loadError, c.noImage].Nodup) && c.deviceError != 0

/-- The process's exit code for the outcome of a run (R168): 0 for HALTED. -/
def exitCode (c : ExitCodes) : Fault → Nat
  | .halted => 0
  | .executionFault _ => c.executionFault
  | .deviceError _ _ => c.deviceError
  | .aborted => c.aborted
  | .loadError => c.loadError
  | .noImage => c.noImage

/-- The code of an outcome in R150's enumeration; the names carry the meaning, not the numbers. -/
def outcomeCode : Fault → Option Nat
  | .halted => some 0
  | .executionFault (.reservedOpcode _ _) => some 1
  | .executionFault (.unknownTrapVector _ _) => some 2
  | .deviceError _ _ => some 3
  | .aborted => some 4
  | .loadError => some 5
  | .noImage => none

end Sys2Proof.Machine
end

