-- ==== Sys2Proof/Safety.lean ====
section
/-! DEFINITION. The terms in which claims are made: the invariant of the machine, what a run's end is worth, and the frames, each written through the state's own reads (a register, a word of memory, a field) and not through the operations that made it. -/

namespace Sys2Proof.Machine

/-! ## Legal states -/

/-- COND holds exactly one of N, Z, P (R29). -/
abbrev State.condOneHot (s : State) : Prop := s.cond = 0b100#3 ∨ s.cond = 0b010#3 ∨ s.cond = 0b001#3

/-- The invariant: memory is in canonical form, COND is one-hot (R29), the flush record lies inside the
console (R166), and the engine is inside a service only in a run (R167, R41). -/
abbrev State.Inv (s : State) : Prop :=
  s.mem.wf = true ∧ s.condOneHot ∧ s.flushed ≤ s.console.length ∧ (s.hold ≠ none → s.run = .running)

/-- The next step fetches: the run goes on, no hold, no signal due (R41, R154, R167). -/
abbrev State.fetches (s : State) : Prop := s.run = .running ∧ s.hold = none ∧ s.signalAt ≠ some 0

/-- A state meets a program's postcondition only at a normal end: FAULT, DEVICE_ERROR and ABORTED never do
(R146, R151). -/
abbrev State.meetsAtHalt (s : State) (post : State → Prop) : Prop := s.run = .halted ∧ post s

/-- The flag of a value, in the words of R106: ZERO if it is 0, NEGATIVE if its high bit is 1, else POSITIVE.
The flags' bits are R30's (log 2). -/
def flagOf (v : Word) : BitVec 3 :=
  if v = 0#16 then Config.condZ else if v.getLsbD 15 then Config.condN else Config.condP

/-! ## Frames -/

/-- The host's side is unchanged: hold, keyboard, console, flush record and signal. -/
abbrev SameHost (s t : State) : Prop :=
  t.hold = s.hold ∧ t.keyboard = s.keyboard ∧ t.console = s.console ∧ t.flushed = s.flushed ∧
    t.signalAt = s.signalAt

/-- Every word of memory reads as before. -/
abbrev SameWords (s t : State) : Prop := ∀ a : Word, t.mem.read a = s.mem.read a

/-- Every general-purpose register is unchanged. -/
abbrev SameRegs (s t : State) : Prop := ∀ r : Reg, t.reg r = s.reg r

/-- From `s` to `t`, `x[dr] <- v; setcc(v)` and nothing else: the other registers, pc, memory, RUN and the
host's side are unchanged. -/
abbrev WritesDest (s t : State) (dr : Reg) (v : Word) : Prop :=
  (∀ r, t.reg r = if r = dr then v else s.reg r) ∧ t.cond = flagOf v ∧ t.pc = s.pc ∧ SameWords s t ∧
    t.run = s.run ∧ SameHost s t

/-- From `s` to `t`, `MEM[a] <- v` and nothing else. -/
abbrev WritesWord (s t : State) (a v : Word) : Prop :=
  (∀ b : Word, t.mem.read b = if b = a then v else s.mem.read b) ∧ SameRegs s t ∧ t.cond = s.cond ∧
    t.pc = s.pc ∧ t.run = s.run ∧ SameHost s t

/-- From `s` to `t`, `pc <- target` and nothing else. -/
abbrev WritesPc (s t : State) (target : Word) : Prop :=
  t.pc = target ∧ SameRegs s t ∧ t.cond = s.cond ∧ SameWords s t ∧ t.run = s.run ∧ SameHost s t

/-- From `s` to `t`, `x[7] <- link; pc <- target` and nothing else; COND is not updated (R32). -/
abbrev LinksAndJumps (s t : State) (link target : Word) : Prop :=
  (∀ r, t.reg r = if r = .r7 then link else s.reg r) ∧ t.pc = target ∧ t.cond = s.cond ∧ SameWords s t ∧
    t.run = s.run ∧ SameHost s t

/-- From `s` to `t` only the run has ended, with RUN = `r` and no hold left (R112, R113). -/
abbrev EndsRun (s t : State) (r : RunState) : Prop :=
  t.run = r ∧ t.hold = none ∧ SameRegs s t ∧ t.cond = s.cond ∧ t.pc = s.pc ∧ SameWords s t ∧
    t.keyboard = s.keyboard ∧ t.console = s.console ∧ t.flushed = s.flushed ∧ t.signalAt = s.signalAt

/-- From `s` to `t`, TRAP's entry `x[7] <- pc` and console bytes `out`, and nothing else (R131), the engine being
inside `hold` after it. -/
abbrev TrapWrites (s t : State) (out : List Byte) (hold : Option Hold) : Prop :=
  (∀ r, t.reg r = if r = .r7 then s.pc else s.reg r) ∧ t.pc = s.pc ∧ t.cond = s.cond ∧ SameWords s t ∧
    t.run = s.run ∧ t.hold = hold ∧ t.keyboard = s.keyboard ∧ t.console = s.console ++ out ∧
    t.flushed = s.flushed ∧ t.signalAt = s.signalAt

/-- From `s` to `t`, TRAP's entry and console bytes `out`, and nothing else. -/
abbrev TrapWritesOut (s t : State) (out : List Byte) : Prop := TrapWrites s t out s.hold

/-- From `s` to `t`, only the host's input has lost its first event: the keyboard is `rest` (R165). -/
abbrev EventTaken (s t : State) (rest : Keyboard) : Prop :=
  t.keyboard = rest ∧ SameRegs s t ∧ t.cond = s.cond ∧ t.pc = s.pc ∧
    SameWords s t ∧ t.run = s.run ∧ t.hold = s.hold ∧ t.console = s.console ∧ t.flushed = s.flushed ∧
    t.signalAt = s.signalAt

/-- From `s` to `t`, GETC has read the key `k`: R0 holds it, zero-extended, without echo or flag update
(R134), and the engine holds no longer. -/
abbrev GetcTakes (s t : State) (k : Byte) (rest : Keyboard) : Prop :=
  (∀ r, t.reg r = if r = .r0 then zext k else s.reg r) ∧ t.cond = s.cond ∧ t.pc = s.pc ∧ SameWords s t ∧
    t.run = s.run ∧ t.hold = none ∧ t.keyboard = rest ∧
    t.console = s.console ∧ t.flushed = s.flushed ∧ t.signalAt = s.signalAt

/-- From `s` to `t`, IN has read the key `k`: it is echoed, R0 holds it, zero-extended, and the flags are
set from it (R137), and the engine holds no longer. -/
abbrev InTakes (s t : State) (k : Byte) (rest : Keyboard) : Prop :=
  (∀ r, t.reg r = if r = .r0 then zext k else s.reg r) ∧ t.cond = flagOf (zext k) ∧ t.pc = s.pc ∧
    SameWords s t ∧ t.run = s.run ∧ t.hold = none ∧ t.keyboard = rest ∧
    t.console = s.console ++ [k] ∧ t.flushed = s.flushed ∧ t.signalAt = s.signalAt

/-- From `s` to `t`, the engine has come to hold inside the service `h`, and nothing else (R167). -/
abbrev ComesToHold (s t : State) (h : Hold) : Prop :=
  t.hold = some h ∧ SameRegs s t ∧ t.cond = s.cond ∧ t.pc = s.pc ∧ SameWords s t ∧ t.run = s.run ∧
    t.keyboard = s.keyboard ∧ t.console = s.console ∧ t.flushed = s.flushed ∧ t.signalAt = s.signalAt

/-- From `s` to `t`, IN's beginning: TRAP's entry, the prompt written, and a flush (R131, R137). -/
abbrev Prompts (s t : State) : Prop :=
  (∀ r, t.reg r = if r = .r7 then s.pc else s.reg r) ∧ t.pc = s.pc ∧ t.cond = s.cond ∧ SameWords s t ∧
    t.run = s.run ∧ t.hold = s.hold ∧ t.keyboard = s.keyboard ∧
    t.console = s.console ++ Config.inPrompt ∧ t.flushed = t.console.length ∧ t.signalAt = s.signalAt

/-- From `s` to `t`, one step of the signal's countdown and nothing else. -/
abbrev OnlyTicks (s t : State) : Prop :=
  t.signalAt = s.signalAt.map (· - 1) ∧ SameRegs s t ∧ t.cond = s.cond ∧ t.pc = s.pc ∧ SameWords s t ∧
    t.run = s.run ∧ t.hold = s.hold ∧ t.keyboard = s.keyboard ∧ t.console = s.console ∧
    t.flushed = s.flushed

/-! ## What one MemRead does (R52, R53, R56) -/

/-- The host's side but for the keyboard is unchanged, and so are the registers, COND, pc and RUN. -/
abbrev OnlyKeyboardAndMemory (s u : State) : Prop :=
  SameRegs s u ∧ u.cond = s.cond ∧ u.pc = s.pc ∧ u.run = s.run ∧ u.hold = s.hold ∧
    u.console = s.console ∧ u.flushed = s.flushed ∧ u.signalAt = s.signalAt

/-- A draw has been taken and the input is that of `rest` (R165). -/
abbrev DrawTaken (s u : State) (rest : Keyboard) : Prop :=
  u.keyboard.events = rest.events ∧ u.keyboard.further = rest.further ∧
    u.keyboard.answers = s.keyboard.answers.tail ∧ u.keyboard.polls = s.keyboard.polls + 1

/-- A poll that found no key (R53): KBSR holds x0000, no event was taken. -/
abbrev PollIdle (s u : State) : Prop :=
  OnlyKeyboardAndMemory s u ∧ DrawTaken s u s.keyboard ∧
    ∀ a : Word, u.mem.read a = if a = Config.kbsrAddr then 0x0000#16 else s.mem.read a

/-- A poll that found the key `k` (R53): KBSR holds x8000, KBDR the key, and the event was taken. -/
abbrev PollKey (s u : State) (k : Byte) (rest : Keyboard) : Prop :=
  OnlyKeyboardAndMemory s u ∧ DrawTaken s u rest ∧
    ∀ a : Word, u.mem.read a =
      if a = Config.kbsrAddr then 0x8000#16
      else if a = Config.kbdrAddr then zext k else s.mem.read a

/-- A poll whose ReadKey failed (R56): KBSR and KBDR are left as they were, the event was taken. -/
abbrev PollFails (s u : State) (rest : Keyboard) : Prop :=
  OnlyKeyboardAndMemory s u ∧ DrawTaken s u rest ∧ SameWords s u

/-- The four cases of `MemRead(a, 16)` at `s`, told apart by the address and the keyboard alone: `ok v u`
holds of the word read and the state after the read, `bad u` of the state after a failing poll. -/
def ReadCases (s : State) (a : Word) (ok : Word → State → Prop) (bad : State → Prop) : Prop :=
  (a ≠ Config.kbsrAddr → ok (s.mem.read a) s) ∧
  (a = Config.kbsrAddr → s.keyAvailable = false → ∃ u, PollIdle s u ∧ ok 0x0000#16 u) ∧
  (∀ k rest, a = Config.kbsrAddr → s.keyAvailable = true → s.keyboard.next = some (.key k, rest) →
    ∃ u, PollKey s u k rest ∧ ok 0x8000#16 u) ∧
  (∀ rest, a = Config.kbsrAddr → s.keyAvailable = true → s.keyboard.next = some (.failure, rest) →
    ∃ u, PollFails s u rest ∧ bad u)

/-! ## The string services (R136, R138) -/

/-- `StringRun bytesOf a s t`: the loop of PUTS or PUTSP, entered at pointer `a` in state `s`, ends in `t`.
It is the loop's pseudocode, one constructor for each way an iteration can go. -/
inductive StringRun (bytesOf : Word → List Byte) : Word → State → State → Prop where
  /-- The word read is x0000: the loop ends, and the engine is inside no service. -/
  | stop {a : Word} {s u : State} : s.memRead a = .value 0#16 u →
      StringRun bytesOf a s (u.setHold none)
  /-- A nonzero word: its bytes are written, and the loop goes on at the next address modulo 2^16. -/
  | more {a w : Word} {s u t : State} : s.memRead a = .value w u → w ≠ 0#16 →
      StringRun bytesOf (a + 1#16) (u.consoleOut (bytesOf w)) t → StringRun bytesOf a s t
  /-- The read is a KBSR poll whose ReadKey fails: the run ends in DEVICE_ERROR. -/
  | failed {a : Word} {s u t : State} : s.memRead a = .failed u →
      EndsRun u t (.deviceError .poll (u.pc - 1#16)) → StringRun bytesOf a s t

/-- `StringGoesOn bytesOf inside n a s t`: the loop, entered at pointer `a` in state `s`, has read `n` words, none
of them x0000, and written their bytes, and has not ended: in `t` the engine is still inside the service. -/
inductive StringGoesOn (bytesOf : Word → List Byte) (inside : Word → Hold) :
    Nat → Word → State → State → Prop where
  /-- No word is left to read in this step. -/
  | pause {a : Word} {s : State} : StringGoesOn bytesOf inside 0 a s (s.setHold (some (inside a)))
  /-- A nonzero word, as in `StringRun.more`. -/
  | more {n : Nat} {a w : Word} {s u t : State} : s.memRead a = .value w u → w ≠ 0#16 →
      StringGoesOn bytesOf inside n (a + 1#16) (u.consoleOut (bytesOf w)) t →
      StringGoesOn bytesOf inside (n + 1) a s t

/-- One step of a string service: the loop ends, or it has gone on for at least a lap of the address space. -/
abbrev StringTurn (bytesOf : Word → List Byte) (inside : Word → Hold) (a : Word) (s t : State) : Prop :=
  StringRun bytesOf a s t ∨ ∃ n, 65536 ≤ n ∧ StringGoesOn bytesOf inside n a s t

/-- No word but KBSR's is x0000, so that only a poll can end a string, and the input is the nonzero key `k` without
end. (A key x00 would put x0000 in KBDR.) -/
abbrev EndlessString (s : State) (k : Byte) : Prop :=
  (∀ b : Word, b ≠ Config.kbsrAddr → s.mem.read b ≠ 0#16) ∧ s.keyboard.events = [] ∧
    s.keyboard.further = .again k ∧ k ≠ 0#8

/-- From `s` to `t`, a string has gone on for a lap and is still inside the service: the run goes on, the string is
as endless as before, and the next draw decides the next lap. -/
abbrev LapWritten (s t : State) (k : Byte) (h : Hold) : Prop :=
  t.hold = some h ∧ t.run = s.run ∧ EndlessString t k ∧ t.pc = s.pc ∧ SameRegs s t ∧ t.cond = s.cond ∧
    t.keyboard.polls = s.keyboard.polls + 1 ∧ t.keyboard.answers = s.keyboard.answers.tail

/-- The events `es` were taken from the input of `k`, in order, and the input of `k'` is left (R165). -/
def Took (k : Keyboard) : List KeyEvent → Keyboard → Prop
  | [], k' => k'.events = k.events ∧ k'.further = k.further
  | e :: es, k' => ∃ rest, k.next = some (e, rest) ∧ Took rest es k'

/-- The bytes of a packed word: the low byte, then the high byte if nonzero (R138). -/
def packedBytes (w : Word) : List Byte :=
  if w.extractLsb' 8 8 = 0#8 then [w.extractLsb' 0 8] else [w.extractLsb' 0 8, w.extractLsb' 8 8]

/-- The words `ws`, none of them x0000, stand at `a` and the addresses after it, with x0000 after the last,
and KBSR_ADDR is not among those addresses. -/
def HoldsString (m : Memory) : Word → List Word → Prop
  | a, [] => a ≠ Config.kbsrAddr ∧ m.read a = 0#16
  | a, w :: ws => a ≠ Config.kbsrAddr ∧ m.read a = w ∧ w ≠ 0#16 ∧ HoldsString m (a + 1#16) ws

/-- The bytes a list of words writes, in order. -/
def bytesOfWords (bytesOf : Word → List Byte) : List Word → List Byte
  | [] => []
  | w :: ws => bytesOf w ++ bytesOfWords bytesOf ws

/-! ## Families of instructions -/

/-- The instructions that run setcc (R31, R107). -/
def setsCond : Instr → Bool
  | .br _ _ => false
  | .addReg _ _ _ => true
  | .addImm _ _ _ => true
  | .ld _ _ => true
  | .st _ _ => false
  | .jsr _ => false
  | .jsrr _ => false
  | .andReg _ _ _ => true
  | .andImm _ _ _ => true
  | .ldr _ _ _ => true
  | .str _ _ _ => false
  | .rti => false
  | .not _ _ => true
  | .ldi _ _ => true
  | .sti _ _ => false
  | .jmp _ => false
  | .res => false
  | .lea _ _ => true
  | .trapGetc => false
  | .trapOut => false
  | .trapPuts => false
  | .trapIn => true
  | .trapPutsp => false
  | .trapHalt => false
  | .trap _ => false

/-- The registers an instruction may write (R23). -/
def mayWrite : Instr → List Reg
  | .br _ _ => []
  | .addReg dr _ _ => [dr]
  | .addImm dr _ _ => [dr]
  | .ld dr _ => [dr]
  | .st _ _ => []
  | .jsr _ => [.r7]
  | .jsrr _ => [.r7]
  | .andReg dr _ _ => [dr]
  | .andImm dr _ _ => [dr]
  | .ldr dr _ _ => [dr]
  | .str _ _ _ => []
  | .rti => []
  | .not dr _ => [dr]
  | .ldi dr _ => [dr]
  | .sti _ _ => []
  | .jmp _ => []
  | .res => []
  | .lea dr _ => [dr]
  | .trapGetc => [.r0, .r7]
  | .trapOut => [.r7]
  | .trapPuts => [.r7]
  | .trapIn => [.r0, .r7]
  | .trapPutsp => [.r7]
  | .trapHalt => [.r7]
  | .trap _ => [.r7]

/-- The store instructions (R71). -/
def isStore : Instr → Bool
  | .st _ _ => true
  | .str _ _ _ => true
  | .sti _ _ => true
  | .br _ _ => false
  | .addReg _ _ _ => false
  | .addImm _ _ _ => false
  | .ld _ _ => false
  | .jsr _ => false
  | .jsrr _ => false
  | .andReg _ _ _ => false
  | .andImm _ _ _ => false
  | .ldr _ _ _ => false
  | .rti => false
  | .not _ _ => false
  | .ldi _ _ => false
  | .jmp _ => false
  | .res => false
  | .lea _ _ => false
  | .trapGetc => false
  | .trapOut => false
  | .trapPuts => false
  | .trapIn => false
  | .trapPutsp => false
  | .trapHalt => false
  | .trap _ => false

/-- The instructions that write pc besides its increment (R27). -/
def writesPc : Instr → Bool
  | .br _ _ => true
  | .jsr _ => true
  | .jsrr _ => true
  | .jmp _ => true
  | .addReg _ _ _ => false
  | .addImm _ _ _ => false
  | .ld _ _ => false
  | .st _ _ => false
  | .andReg _ _ _ => false
  | .andImm _ _ _ => false
  | .ldr _ _ _ => false
  | .str _ _ _ => false
  | .rti => false
  | .not _ _ => false
  | .ldi _ _ => false
  | .sti _ _ => false
  | .res => false
  | .lea _ _ => false
  | .trapGetc => false
  | .trapOut => false
  | .trapPuts => false
  | .trapIn => false
  | .trapPutsp => false
  | .trapHalt => false
  | .trap _ => false

/-- How RUN may stand after an instruction that ran in RUNNING (R112, R147, R148): still RUNNING; HALTED
after HALT only; FAULT after RTI and RES (reserved opcode) and TRAP (unknown vector) only; DEVICE_ERROR. -/
def mayEndAs : Instr → RunState → Prop
  | i, .running => i ≠ .rti ∧ i ≠ .res ∧ i ≠ .trapHalt ∧ ∀ v, i ≠ .trap v
  | i, .halted => i = .trapHalt
  | i, .fault (.reservedOpcode op _) => (i = .rti ∧ op = 0x8#4) ∨ (i = .res ∧ op = 0xD#4)
  | i, .fault (.unknownTrapVector v _) => i = .trap v
  | i, .deviceError site _ =>
    match site with
    | .getc => i = .trapGetc
    | .inSvc => i = .trapIn
    | .poll => (∃ dr off, i = .ld dr off) ∨ (∃ dr off, i = .ldi dr off) ∨ (∃ dr b off, i = .ldr dr b off) ∨
        (∃ sr off, i = .sti sr off) ∨ i = .trapPuts ∨ i = .trapPutsp
  | _, .aborted => False

end Sys2Proof.Machine
end

