-- ==== Sys2Proof/Certificates/Slice0/Obligations.lean ====
section
/-! DEFINITION. The statements for the provers. Each says which rule of spec/ it formalises. A statement about one instruction has two parts: which words decode to it (the rule's match under its mask, and its fields), and what `exec` makes of it in the state after the fetch, where pc is the incremented PC (R27). The opcode and vector numbers stand in the rules; the spec took them from the LC-3 convention (its decisions D1 and D4; log 1, log 4), and so the flags' bits (D2; log 2). -/

open Sys2Proof Sys2Proof.Machine

/-! ## Encoding -/

/-- Words of every family, from the examples of the rules and of spec/95_test_vectors.md, decode to the
instructions those examples name. -/
def Obligations.SampleWordsDecode : Prop :=
  decode 0x1401#16 = .addReg .r2 .r0 .r1 ∧ decode 0x123D#16 = .addImm .r1 .r0 0b11101#5 ∧
  decode 0x5401#16 = .andReg .r2 .r0 .r1 ∧ decode 0x502F#16 = .andImm .r0 .r0 0b01111#5 ∧
  decode 0x9680#16 = .not .r3 .r2 ∧ decode 0x2202#16 = .ld .r1 2#9 ∧
  decode 0xA401#16 = .ldi .r2 1#9 ∧ decode 0x63BF#16 = .ldr .r1 .r6 0b111111#6 ∧
  decode 0xE7FF#16 = .lea .r3 0x1FF#9 ∧ decode 0x3002#16 = .st .r0 2#9 ∧
  decode 0xB600#16 = .sti .r3 0#9 ∧ decode 0x7381#16 = .str .r1 .r6 1#6 ∧
  decode 0x0402#16 = .br 0b010#3 2#9 ∧ decode 0xC1C0#16 = .jmp .r7 ∧
  decode 0x4803#16 = .jsr 3#11 ∧ decode 0x4080#16 = .jsrr .r2 ∧
  decode 0xFF25#16 = .trapHalt ∧ decode 0xF026#16 = .trap 0x26#8 ∧
  decode 0x8000#16 = .rti ∧ decode 0xD123#16 = .res

/-- The decoder reads back every well-formed instruction the encoder writes: no bit of a field is dropped,
at any value of any operand (R77 to R88). -/
def Obligations.EncodeThenDecode : Prop :=
  ∀ i : Instr, WellFormed i = true → decode (encode i) = i

/-- Every word decodes to a well-formed instruction (R75), and the encoder gives the word back but for its
ignored bits (R94, the spec's decision D8), which it writes as zeros (log 14). -/
def Obligations.DecodeThenEncode : Prop :=
  ∀ w : Word, WellFormed (decode w) = true ∧ encode (decode w) = w &&& ~~~ ignoredBits (decode w)

/-- The ignored bits of R94's table never change what a word decodes to, whatever stands in them (the
spec's decision D8). -/
def Obligations.IgnoredBitsNeverMatter : Prop :=
  ∀ w x : Word,
    decode ((w &&& ~~~ ignoredBits (decode w)) ||| (x &&& ignoredBits (decode w))) = decode w

/-! ## The engine -/

/-- A STEP RUNS THE DECODED INSTRUCTION: where the next step fetches, from an address other than KBSR_ADDR, it
is `exec` of the instruction the word at pc decodes to, in the state with pc incremented modulo 2^16 (R103)
and the signal's countdown taken (the model's, log 11). -/
def Obligations.StepRunsDecodedInstruction : Prop :=
  ∀ s : State, s.fetches → s.pc ≠ Config.kbsrAddr →
    step s = exec (decode (s.mem.read s.pc))
      { s with pc := s.pc + 1#16, signalAt := s.signalAt.map (· - 1) }

/-- The fetch is a MemRead like any other (R57, R103; the spec's decisions D6, D15): at KBSR_ADDR it polls, and
the word the poll stored is decoded and executed; a failing poll ends the run before the increment, and
records pc. The state read in is `s.tick`, `s` with the signal's countdown taken, which is the model's (log 11). -/
def Obligations.FetchIsMemRead : Prop :=
  ∀ s : State, s.fetches →
    ReadCases s.tick s.pc
      (fun ir u => step s = exec (decode ir) (u.setPc (s.pc + 1#16)))
      (fun u => ∃ t, step s = .next t ∧ EndsRun u t (.deviceError .poll s.pc))

/-- A run that has ended takes no step (R41, R146): `step` answers the run's outcome (R150) as its fault, which
is how this model shows the end of a run (log 9). -/
def Obligations.EndedRunTakesNoStep : Prop :=
  ∀ s : State,
    (s.run = .halted → step s = .fault .halted) ∧
    (∀ c, s.run = .fault c → step s = .fault (.executionFault c)) ∧
    (∀ site addr, s.run = .deviceError site addr → step s = .fault (.deviceError site addr)) ∧
    (s.run = .aborted → step s = .fault .aborted)

/-- The host's signal ends the run before the next fetch or inside a service, with RUN = ABORTED, and nothing else
changes (R154, R156; the spec's decision D22). That the signal is a countdown, and that the registers of an
abandoned service are not rolled back, is the model's (log 11). The step after it answers the run's outcome
(R146, R150) as its fault, which is how this model shows the end of a run (log 9). -/
def Obligations.SignalAbortsTheRun : Prop :=
  ∀ s : State, s.run = .running → s.signalAt = some 0 →
    ∃ t, step s = .next t ∧ EndsRun s t .aborted ∧ step t = .fault .aborted

/-- GETC and IN wait as long as the input has no next event: a step of a held engine (log 10) changes nothing
(R167; the spec's decision D27) but the signal's countdown (log 11). -/
def Obligations.HoldWaitsForInput : Prop :=
  ∀ s : State, s.run = .running → s.hold = some .getc ∨ s.hold = some .inSvc → s.signalAt ≠ some 0 →
    s.keyboard.next = none → ∃ t, step s = .next t ∧ OnlyTicks s t

/-- A hold ends when there is a next event, whatever follows it, and the service goes on from its ReadKey (R134,
R137, R148, R167; the spec's decisions D13, D27). An event the host supplies to an input that has none is its next
event. The hold is the model's way of showing the wait (log 10), and the signal's countdown, taken in `s.tick`,
is the model's (log 11). -/
def Obligations.HeldServiceResumes : Prop :=
  (∀ (s : State) (rest : Keyboard), s.run = .running → s.signalAt ≠ some 0 →
    (∀ k, s.hold = some .getc → s.keyboard.next = some (.key k, rest) →
      ∃ t, step s = .next t ∧ GetcTakes s.tick t k rest) ∧
    (∀ k, s.hold = some .inSvc → s.keyboard.next = some (.key k, rest) →
      ∃ t, step s = .next t ∧ InTakes s.tick t k rest) ∧
    (s.hold = some .getc → s.keyboard.next = some (.failure, rest) →
      ∃ u t, EventTaken s.tick u rest ∧ step s = .next t ∧
        EndsRun u t (.deviceError .getc (s.pc - 1#16))) ∧
    (s.hold = some .inSvc → s.keyboard.next = some (.failure, rest) →
      ∃ u t, EventTaken s.tick u rest ∧ step s = .next t ∧
        EndsRun u t (.deviceError .inSvc (s.pc - 1#16)))) ∧
  ∀ (s : State) (e : KeyEvent), s.keyboard.next = none →
    (s.supplyEvent e).keyboard.next = some (e, s.keyboard)

/-! ## Values, flags and memory -/

/-- R15. Sign extension copies the sign bit into the upper bits; as arithmetic it is f below 2^(N-1) and
f + 65536 - 2^N otherwise. Zero extension keeps the value. -/
def Obligations.ExtensionsFollowR15 : Prop :=
  (∀ (n : Nat) (f : BitVec n), 0 < n → n ≤ 16 →
    (∀ i, i < 16 → (sext f).getLsbD i = if i < n then f.getLsbD i else f.getLsbD (n - 1)) ∧
    (sext f).toNat = if f.toNat < 2 ^ (n - 1) then f.toNat else f.toNat + 65536 - 2 ^ n) ∧
  (∀ k : Byte, (zext k).toNat = k.toNat)

/-- R106. setcc sets exactly one flag, by the value, and nothing else. The flags' bits are those of R30 (the
spec's decision D2). -/
def Obligations.SetccSetsOneFlag : Prop :=
  ∀ (s : State) (v : Word),
    (s.setcc v).cond = flagOf v ∧
    flagOf v = (if v = 0#16 then 0b010#3 else if v.getLsbD 15 then 0b100#3 else 0b001#3) ∧ (s.setcc v).condOneHot ∧ SameRegs s (s.setcc v) ∧
    (s.setcc v).pc = s.pc ∧ SameWords s (s.setcc v) ∧ (s.setcc v).run = s.run ∧ SameHost s (s.setcc v)

/-- R51. MemWrite is a direct store at every address, KBSR_ADDR and KBDR_ADDR included, with no other effect. -/
def Obligations.MemWriteIsDirectStore : Prop :=
  ∀ (s : State) (a v : Word), WritesWord s (s.memWrite a v) a v

/-- R52. MemRead at any address but KBSR_ADDR returns the word there and changes nothing. -/
def Obligations.MemReadIsPlain : Prop :=
  ∀ (s : State) (a : Word), a ≠ Config.kbsrAddr → s.memRead a = .value (s.mem.read a) s

/-- R53, R56. MemRead at KBSR_ADDR polls first: whole words are stored (the spec's decision D5), the key is
consumed by the read that found it, and a failing ReadKey leaves KBSR and KBDR as they were (D15). The record of the
draws is the model's (log 8). -/
def Obligations.KbsrReadPolls : Prop :=
  ∀ (s : State) (a : Word),
    ReadCases s a (fun v u => s.memRead a = .value v u) (fun u => s.memRead a = .failed u)

/-- R39, R54. A word a program stores in KBSR is never observed: the next read gives what it would have given
without the store. A word stored in KBDR is read back as stored. -/
def Obligations.DeviceRegisterWrites : Prop :=
  ∀ (s : State) (v : Word),
    ((∃ w u u', (s.memWrite Config.kbsrAddr v).memRead Config.kbsrAddr = .value w u ∧
        s.memRead Config.kbsrAddr = .value w u' ∧ SameWords u u') ∨
      (∃ u u', (s.memWrite Config.kbsrAddr v).memRead Config.kbsrAddr = .failed u ∧
        s.memRead Config.kbsrAddr = .failed u')) ∧
    (s.memWrite Config.kbdrAddr v).memRead Config.kbdrAddr =
      .value v (s.memWrite Config.kbdrAddr v)

/-- R184, and the source's examples L1-10 and L1-11: with one key pending, a KBSR read that finds it returns
x8000 and KBDR holds the key; the next KBSR read returns x0000 and KBDR still holds it. -/
def Obligations.KeyboardProtocol : Prop :=
  ∀ (s : State) (k : Byte) (rest : Keyboard), s.keyAvailable = true →
    s.keyboard.next = some (.key k, rest) → rest.next = none →
    ∃ u v, s.memRead Config.kbsrAddr = .value 0x8000#16 u ∧
      u.memRead Config.kbdrAddr = .value (zext k) u ∧
      u.memRead Config.kbsrAddr = .value 0x0000#16 v ∧
      v.memRead Config.kbdrAddr = .value (zext k) v

/-- Two memories in canonical form that read the same at every address are the same data (the model's
representation, log 7). -/
def Obligations.CanonicalMemoriesAreEqual : Prop :=
  ∀ m m' : Memory, m.wf = true → m'.wf = true → (∀ a : Word, m.read a = m'.read a) → m = m'

/-! ## Operate instructions -/

/-- R114. ADD, register mode. -/
def Obligations.AddRegister : Prop :=
  (∀ w : Word, w &&& 0xF020#16 = 0x1000#16 → decode w =
    .addReg (Reg.ofBits (w.extractLsb' 9 3)) (Reg.ofBits (w.extractLsb' 6 3))
      (Reg.ofBits (w.extractLsb' 0 3))) ∧
  ∀ (dr sr1 sr2 : Reg) (s : State), ∃ t, exec (.addReg dr sr1 sr2) s = .next t ∧
    WritesDest s t dr (s.reg sr1 + s.reg sr2)

/-- R115. ADD, immediate mode. -/
def Obligations.AddImmediate : Prop :=
  (∀ w : Word, w &&& 0xF020#16 = 0x1020#16 → decode w =
    .addImm (Reg.ofBits (w.extractLsb' 9 3)) (Reg.ofBits (w.extractLsb' 6 3)) (w.extractLsb' 0 5)) ∧
  ∀ (dr sr1 : Reg) (imm5 : BitVec 5) (s : State), ∃ t, exec (.addImm dr sr1 imm5) s = .next t ∧
    WritesDest s t dr (s.reg sr1 + sext imm5)

/-- R116. AND, register mode. -/
def Obligations.AndRegister : Prop :=
  (∀ w : Word, w &&& 0xF020#16 = 0x5000#16 → decode w =
    .andReg (Reg.ofBits (w.extractLsb' 9 3)) (Reg.ofBits (w.extractLsb' 6 3))
      (Reg.ofBits (w.extractLsb' 0 3))) ∧
  ∀ (dr sr1 sr2 : Reg) (s : State), ∃ t, exec (.andReg dr sr1 sr2) s = .next t ∧
    WritesDest s t dr (s.reg sr1 &&& s.reg sr2)

/-- R117. AND, immediate mode. -/
def Obligations.AndImmediate : Prop :=
  (∀ w : Word, w &&& 0xF020#16 = 0x5020#16 → decode w =
    .andImm (Reg.ofBits (w.extractLsb' 9 3)) (Reg.ofBits (w.extractLsb' 6 3)) (w.extractLsb' 0 5)) ∧
  ∀ (dr sr1 : Reg) (imm5 : BitVec 5) (s : State), ∃ t, exec (.andImm dr sr1 imm5) s = .next t ∧
    WritesDest s t dr (s.reg sr1 &&& sext imm5)

/-- R118. NOT. -/
def Obligations.NotComplements : Prop :=
  (∀ w : Word, w &&& 0xF000#16 = 0x9000#16 → decode w =
    .not (Reg.ofBits (w.extractLsb' 9 3)) (Reg.ofBits (w.extractLsb' 6 3))) ∧
  ∀ (dr sr : Reg) (s : State), ∃ t, exec (.not dr sr) s = .next t ∧
    WritesDest s t dr (~~~ s.reg sr)

/-! ## Loads -/

/-- R119. LD. -/
def Obligations.LdLoads : Prop :=
  (∀ w : Word, w &&& 0xF000#16 = 0x2000#16 → decode w =
    .ld (Reg.ofBits (w.extractLsb' 9 3)) (w.extractLsb' 0 9)) ∧
  ∀ (dr : Reg) (off : BitVec 9) (s : State),
    ReadCases s (s.pc + sext off)
      (fun v u => ∃ t, exec (.ld dr off) s = .next t ∧ WritesDest u t dr v)
      (fun u => ∃ t, exec (.ld dr off) s = .next t ∧ EndsRun u t (.deviceError .poll (s.pc - 1#16)))

/-- R120. LDI: the pointer's read, then the data's; a failure of the first skips the second. -/
def Obligations.LdiLoadsIndirect : Prop :=
  (∀ w : Word, w &&& 0xF000#16 = 0xA000#16 → decode w =
    .ldi (Reg.ofBits (w.extractLsb' 9 3)) (w.extractLsb' 0 9)) ∧
  ∀ (dr : Reg) (off : BitVec 9) (s : State),
    ReadCases s (s.pc + sext off)
      (fun ea u => ReadCases u ea
        (fun v u' => ∃ t, exec (.ldi dr off) s = .next t ∧ WritesDest u' t dr v)
        (fun u' => ∃ t, exec (.ldi dr off) s = .next t ∧
          EndsRun u' t (.deviceError .poll (s.pc - 1#16))))
      (fun u => ∃ t, exec (.ldi dr off) s = .next t ∧ EndsRun u t (.deviceError .poll (s.pc - 1#16)))

/-- R121. LDR: the address comes from the old base, so dr may equal base. -/
def Obligations.LdrLoads : Prop :=
  (∀ w : Word, w &&& 0xF000#16 = 0x6000#16 → decode w =
    .ldr (Reg.ofBits (w.extractLsb' 9 3)) (Reg.ofBits (w.extractLsb' 6 3)) (w.extractLsb' 0 6)) ∧
  ∀ (dr base : Reg) (off : BitVec 6) (s : State),
    ReadCases s (s.reg base + sext off)
      (fun v u => ∃ t, exec (.ldr dr base off) s = .next t ∧ WritesDest u t dr v)
      (fun u => ∃ t, exec (.ldr dr base off) s = .next t ∧
        EndsRun u t (.deviceError .poll (s.pc - 1#16)))

/-- R122. LEA: no memory access, even where the address is KBSR_ADDR; the flags come from the address. -/
def Obligations.LeaComputesAddress : Prop :=
  (∀ w : Word, w &&& 0xF000#16 = 0xE000#16 → decode w =
    .lea (Reg.ofBits (w.extractLsb' 9 3)) (w.extractLsb' 0 9)) ∧
  ∀ (dr : Reg) (off : BitVec 9) (s : State), ∃ t, exec (.lea dr off) s = .next t ∧
    WritesDest s t dr (s.pc + sext off)

/-! ## Stores -/

/-- R123. ST. -/
def Obligations.StStores : Prop :=
  (∀ w : Word, w &&& 0xF000#16 = 0x3000#16 → decode w =
    .st (Reg.ofBits (w.extractLsb' 9 3)) (w.extractLsb' 0 9)) ∧
  ∀ (sr : Reg) (off : BitVec 9) (s : State), ∃ t, exec (.st sr off) s = .next t ∧
    WritesWord s t (s.pc + sext off) (s.reg sr)

/-- R124. STI: the pointer's read, which may poll, then the store; a failing poll leaves it out. -/
def Obligations.StiStoresIndirect : Prop :=
  (∀ w : Word, w &&& 0xF000#16 = 0xB000#16 → decode w =
    .sti (Reg.ofBits (w.extractLsb' 9 3)) (w.extractLsb' 0 9)) ∧
  ∀ (sr : Reg) (off : BitVec 9) (s : State),
    ReadCases s (s.pc + sext off)
      (fun ea u => ∃ t, exec (.sti sr off) s = .next t ∧ WritesWord u t ea (s.reg sr))
      (fun u => ∃ t, exec (.sti sr off) s = .next t ∧ EndsRun u t (.deviceError .poll (s.pc - 1#16)))

/-- R125. STR. -/
def Obligations.StrStores : Prop :=
  (∀ w : Word, w &&& 0xF000#16 = 0x7000#16 → decode w =
    .str (Reg.ofBits (w.extractLsb' 9 3)) (Reg.ofBits (w.extractLsb' 6 3)) (w.extractLsb' 0 6)) ∧
  ∀ (sr base : Reg) (off : BitVec 6) (s : State), ∃ t, exec (.str sr base off) s = .next t ∧
    WritesWord s t (s.reg base + sext off) (s.reg sr)

/-- The round trip of the source's example L1-8 (R119, R123): a word stored by ST is what an LD of the same
address loads, from whatever pc it runs. -/
def Obligations.StoreThenLoadRoundTrip : Prop :=
  ∀ (sr dr : Reg) (off off' : BitVec 9) (p : Word) (s : State),
    s.pc + sext off ≠ Config.kbsrAddr → p + sext off' = s.pc + sext off →
    ∃ t u, exec (.st sr off) s = .next t ∧ exec (.ld dr off') (t.setPc p) = .next u ∧
      u.reg dr = s.reg sr ∧ u.cond = flagOf (s.reg sr) ∧ t.cond = s.cond

/-- An ST to pc overwrites the next instruction, and the next step executes the new word (R69, R70; the spec's
decision D20), with the signal's countdown taken (the model's, log 11). -/
def Obligations.StoredWordIsFetchedNext : Prop :=
  ∀ (sr : Reg) (s : State), s.fetches → s.pc ≠ Config.kbsrAddr →
    ∃ t, exec (.st sr 0#9) s = .next t ∧
      step t = exec (decode (s.reg sr))
        { t with pc := s.pc + 1#16, signalAt := s.signalAt.map (· - 1) }

/-! ## Control transfer -/

/-- R126. BR, with the pairing of cond bits and flags of R30 (the spec's decision D2): taken where a cond bit
meets the flag, else nothing but the increment of pc; cond 000 is never taken, and cond 111 always, in every
state whose COND is legal (R29). -/
def Obligations.BrBranches : Prop :=
  (∀ w : Word, w &&& 0xF000#16 = 0x0000#16 → decode w =
    .br (w.extractLsb' 9 3) (w.extractLsb' 0 9)) ∧
  (∀ (cond : BitVec 3) (off : BitVec 9) (s : State), cond &&& s.cond ≠ 0#3 →
    ∃ t, exec (.br cond off) s = .next t ∧ WritesPc s t (s.pc + sext off)) ∧
  (∀ (cond : BitVec 3) (off : BitVec 9) (s : State), cond &&& s.cond = 0#3 →
    exec (.br cond off) s = .next s) ∧
  (∀ (off : BitVec 9) (s : State), exec (.br 0b000#3 off) s = .next s) ∧
  (∀ (off : BitVec 9) (s : State), s.condOneHot →
    ∃ t, exec (.br 0b111#3 off) s = .next t ∧ WritesPc s t (s.pc + sext off))

/-- R127. JMP. -/
def Obligations.JmpJumps : Prop :=
  (∀ w : Word, w &&& 0xF000#16 = 0xC000#16 → decode w = .jmp (Reg.ofBits (w.extractLsb' 6 3))) ∧
  ∀ (base : Reg) (s : State), ∃ t, exec (.jmp base) s = .next t ∧ WritesPc s t (s.reg base)

/-- R128. JSR; the link does not update COND (the spec's decision D10). -/
def Obligations.JsrLinksAndJumps : Prop :=
  (∀ w : Word, w &&& 0xF800#16 = 0x4800#16 → decode w = .jsr (w.extractLsb' 0 11)) ∧
  ∀ (off : BitVec 11) (s : State), ∃ t, exec (.jsr off) s = .next t ∧
    LinksAndJumps s t s.pc (s.pc + sext off)

/-- R129. JSRR: the base is read after the link write, so base R7 goes on at the next word (the spec's
decision D9); the link does not update COND (D10). -/
def Obligations.JsrrLinksThenReadsBase : Prop :=
  (∀ w : Word, w &&& 0xF800#16 = 0x4000#16 → decode w = .jsrr (Reg.ofBits (w.extractLsb' 6 3))) ∧
  ∀ (base : Reg) (s : State), ∃ t, exec (.jsrr base) s = .next t ∧
    LinksAndJumps s t s.pc (if base = .r7 then s.pc else s.reg base)

/-! ## TRAP and its services -/

/-- R134, with TRAP's entry (R131): GETC reads the next key into R0 without echo or flag update; a failing
read ends the run with R7 written; with no event the engine holds inside the service (the spec's decisions
D13, D27). The vector number is the spec's decision D4. -/
def Obligations.GetcReadsKey : Prop :=
  (∀ w : Word, w &&& 0xF0FF#16 = 0xF020#16 → decode w = .trapGetc) ∧
  (∀ (s : State) (k : Byte) (rest : Keyboard), s.keyboard.next = some (.key k, rest) →
    ∃ e t, TrapWritesOut s e [] ∧ exec .trapGetc s = .next t ∧ GetcTakes e t k rest) ∧
  (∀ (s : State) (rest : Keyboard), s.keyboard.next = some (.failure, rest) →
    ∃ e u t, TrapWritesOut s e [] ∧ EventTaken e u rest ∧ exec .trapGetc s = .next t ∧
      EndsRun u t (.deviceError .getc (s.pc - 1#16))) ∧
  (∀ s : State, s.keyboard.next = none →
    ∃ e t, TrapWritesOut s e [] ∧ exec .trapGetc s = .next t ∧ ComesToHold e t .getc)

/-- R135, with TRAP's entry: OUT writes the low byte of R0. -/
def Obligations.OutWritesByte : Prop :=
  (∀ w : Word, w &&& 0xF0FF#16 = 0xF021#16 → decode w = .trapOut) ∧
  ∀ s : State, ∃ t, exec .trapOut s = .next t ∧ TrapWritesOut s t [(s.reg .r0).extractLsb' 0 8]

/-- R136, with TRAP's entry: PUTS is its loop (the spec's decision D7 for its wrap).
The reads are those of R52, R53 and R56 (the spec's decision D6), the bytes those of D12. One step reads at least
a lap of the address space unless the loop ends, and the engine is then still inside the service and goes on in the
next step: the lap is the model's choice (log 15), and so are the countdown in `s.tick` (log 11) and the record of
the draws (log 8). Where the input ends
with the listed events, the loop ends in that step. A string that only a poll can end, with a nonzero key pending
without end, goes on for another lap as long as the poll of each lap finds a key: the endless run of R136, R172
and K16; a poll that finds no key ends it. -/
def Obligations.PutsRunsItsLoop : Prop :=
  (∀ w : Word, w &&& 0xF0FF#16 = 0xF022#16 → decode w = .trapPuts) ∧
  (∀ s : State, ∃ e t, TrapWritesOut s e [] ∧ exec .trapPuts s = .next t ∧
    StringTurn (fun w => [w.extractLsb' 0 8]) .puts (s.reg .r0) e t) ∧
  (∀ (s : State) (a : Word), s.run = .running → s.hold = some (.puts a) → s.signalAt ≠ some 0 →
    ∃ t, step s = .next t ∧ StringTurn (fun w => [w.extractLsb' 0 8]) .puts a s.tick t) ∧
  (∀ s : State, s.keyboard.further = .ends → ∃ e t, TrapWritesOut s e [] ∧
    exec .trapPuts s = .next t ∧ StringRun (fun w => [w.extractLsb' 0 8]) (s.reg .r0) e t) ∧
  (∀ (s : State) (k : Byte), EndlessString s k →
    (s.keyAvailable = true → ∃ e t, TrapWritesOut s e [] ∧ exec .trapPuts s = .next t ∧
      LapWritten e t k (.puts (s.reg .r0))) ∧
    (s.keyAvailable = false → ∃ t, exec .trapPuts s = .next t ∧ t.hold = none ∧ t.run = s.run)) ∧
  (∀ (s : State) (k : Byte) (a : Word), EndlessString s k → s.run = .running →
    s.hold = some (.puts a) → s.signalAt ≠ some 0 →
    (s.keyAvailable = true → ∃ t, step s = .next t ∧ LapWritten s t k (.puts a)) ∧
    (s.keyAvailable = false → ∃ t, step s = .next t ∧ t.hold = none ∧ t.run = .running))

/-- R137, with TRAP's entry: IN prompts and flushes, then reads, echoes and stores the next key and sets the
flags from it; a failing read leaves R0 and COND; with no event the engine holds, the prompt written (the
spec's decisions D13, D14, D27). It holds for every prompt (log 12). -/
def Obligations.InPromptsAndReadsKey : Prop :=
  (∀ w : Word, w &&& 0xF0FF#16 = 0xF023#16 → decode w = .trapIn) ∧
  (∀ (s : State) (k : Byte) (rest : Keyboard), s.keyboard.next = some (.key k, rest) →
    ∃ e t, Prompts s e ∧ exec .trapIn s = .next t ∧ InTakes e t k rest) ∧
  (∀ (s : State) (rest : Keyboard), s.keyboard.next = some (.failure, rest) →
    ∃ e u t, Prompts s e ∧ EventTaken e u rest ∧ exec .trapIn s = .next t ∧
      EndsRun u t (.deviceError .inSvc (s.pc - 1#16))) ∧
  (∀ s : State, s.keyboard.next = none →
    ∃ e t, Prompts s e ∧ exec .trapIn s = .next t ∧ ComesToHold e t .inSvc)

/-- R138, with TRAP's entry: PUTSP is its loop, low byte first, then the high byte if nonzero (D7 for its wrap).
The reads are those of R52, R53 and R56 (the spec's decision D6), the bytes those of D12. One step reads at least
a lap of the address space unless the loop ends, and the engine is then still inside the service and goes on in the
next step: the lap is the model's choice (log 15), and so are the countdown in `s.tick` (log 11) and the record of
the draws (log 8). Where the input ends
with the listed events, the loop ends in that step. A string that only a poll can end, with a nonzero key pending
without end, goes on for another lap as long as the poll of each lap finds a key: the endless run of R136, R172
and K16; a poll that finds no key ends it. -/
def Obligations.PutspRunsItsLoop : Prop :=
  (∀ w : Word, w &&& 0xF0FF#16 = 0xF024#16 → decode w = .trapPutsp) ∧
  (∀ s : State, ∃ e t, TrapWritesOut s e [] ∧ exec .trapPutsp s = .next t ∧
    StringTurn packedBytes .putsp (s.reg .r0) e t) ∧
  (∀ (s : State) (a : Word), s.run = .running → s.hold = some (.putsp a) → s.signalAt ≠ some 0 →
    ∃ t, step s = .next t ∧ StringTurn packedBytes .putsp a s.tick t) ∧
  (∀ s : State, s.keyboard.further = .ends → ∃ e t, TrapWritesOut s e [] ∧
    exec .trapPutsp s = .next t ∧ StringRun packedBytes (s.reg .r0) e t) ∧
  (∀ (s : State) (k : Byte), EndlessString s k →
    (s.keyAvailable = true → ∃ e t, TrapWritesOut s e [] ∧ exec .trapPutsp s = .next t ∧
      LapWritten e t k (.putsp (s.reg .r0))) ∧
    (s.keyAvailable = false → ∃ t, exec .trapPutsp s = .next t ∧ t.hold = none ∧ t.run = s.run)) ∧
  (∀ (s : State) (k : Byte) (a : Word), EndlessString s k → s.run = .running →
    s.hold = some (.putsp a) → s.signalAt ≠ some 0 →
    (s.keyAvailable = true → ∃ t, step s = .next t ∧ LapWritten s t k (.putsp a)) ∧
    (s.keyAvailable = false → ∃ t, step s = .next t ∧ t.hold = none ∧ t.run = .running))

/-- R136, R138 for a string that does not pass over KBSR_ADDR: its bytes are written in order, R7 is the link,
nothing else changes, and the engine is inside no service. The string may wrap from xFFFF to x0000 (the spec's decision D7). -/
def Obligations.StringServicesWriteStrings : Prop :=
  ∀ (s : State) (ws : List Word), HoldsString s.mem (s.reg .r0) ws →
    (∃ t, exec .trapPuts s = .next t ∧
      TrapWrites s t (bytesOfWords (fun w => [w.extractLsb' 0 8]) ws) none) ∧
    (∃ t, exec .trapPutsp s = .next t ∧
      TrapWrites s t (bytesOfWords packedBytes ws) none)

/-- R139, with TRAP's entry: HALT flushes the console, prints nothing and ends the run in HALTED, with R7
written and pc at the next word (the spec's decision D29). -/
def Obligations.HaltEndsTheRun : Prop :=
  (∀ w : Word, w &&& 0xF0FF#16 = 0xF025#16 → decode w = .trapHalt) ∧
  ∀ s : State, ∃ t, exec .trapHalt s = .next t ∧ t.run = .halted ∧ t.hold = none ∧
    (∀ r, t.reg r = if r = .r7 then s.pc else s.reg r) ∧ t.pc = s.pc ∧ t.cond = s.cond ∧
    SameWords s t ∧ t.keyboard = s.keyboard ∧ t.console = s.console ∧
    t.flushed = s.console.length ∧ t.signalAt = s.signalAt

/-- R140, with TRAP's entry: a vector below x20 or above x25 writes R7 and then ends the run in FAULT, recording
the vector and the instruction's address (the spec's decision D18). -/
def Obligations.UnknownVectorFaults : Prop :=
  (∀ w : Word, w &&& 0xF000#16 = 0xF000#16 →
    ((w.extractLsb' 0 8).toNat < 0x20 ∨ 0x25 < (w.extractLsb' 0 8).toNat) →
    decode w = .trap (w.extractLsb' 0 8)) ∧
  ∀ (v : Byte) (s : State), v.toNat < 0x20 ∨ 0x25 < v.toNat →
    ∃ e t, TrapWritesOut s e [] ∧ exec (.trap v) s = .next t ∧
      EndsRun e t (.fault (.unknownTrapVector v (s.pc - 1#16)))

/-! ## Reserved opcodes -/

/-- R143. RTI always ends the run in FAULT: only pc has been incremented, opcode and address are recorded, no
further instruction runs, and the exit code is the execution-fault code. That the next step answers the outcome
(R146, R150) as its fault is the model's (log 9), and so is the exit code as a function of any codes (log 17). -/
def Obligations.RtiFaults : Prop :=
  (∀ w : Word, w &&& 0xF000#16 = 0x8000#16 → decode w = .rti) ∧
  ∀ s : State, ∃ t, exec .rti s = .next t ∧
    EndsRun s t (.fault (.reservedOpcode 0x8#4 (s.pc - 1#16))) ∧
    step t = .fault (.executionFault (.reservedOpcode 0x8#4 (s.pc - 1#16))) ∧
    ∀ c : ExitCodes, exitCode c (.executionFault (.reservedOpcode 0x8#4 (s.pc - 1#16))) =
      c.executionFault

/-- R144. RES always ends the run in FAULT, in the same way for each of its 4096 words. That the next step answers
the outcome (R146, R150) as its fault is the model's (log 9). -/
def Obligations.ResFaults : Prop :=
  (∀ w : Word, w &&& 0xF000#16 = 0xD000#16 → decode w = .res) ∧
  ∀ s : State, ∃ t, exec .res s = .next t ∧
    EndsRun s t (.fault (.reservedOpcode 0xD#4 (s.pc - 1#16))) ∧
    step t = .fault (.executionFault (.reservedOpcode 0xD#4 (s.pc - 1#16)))

/-! ## Whole-machine rules -/

/-- R31, R32, R107: only ADD, AND, NOT, LD, LDI, LDR, LEA and IN write COND, and an instruction that ends the
run does not (the spec's decision D10). -/
def Obligations.OnlySetccInstructionsWriteCond : Prop :=
  ∀ (i : Instr) (s t : State), exec i s = .next t → setsCond i = false ∨ t.run ≠ s.run →
    t.cond = s.cond

/-- R23: an instruction writes no general-purpose register but its dr, R7 for JSR, JSRR and TRAP, and R0 for
GETC and IN. -/
def Obligations.RegistersWrittenAreTheTables : Prop :=
  ∀ (i : Instr) (s t : State) (r : Reg), exec i s = .next t → r ∉ mayWrite i → t.reg r = s.reg r

/-- R27: only BR, JMP, JSR and JSRR write pc after its increment; TRAP goes on at the next word (R133). -/
def Obligations.OnlyControlTransfersWritePc : Prop :=
  ∀ (i : Instr) (s t : State), exec i s = .next t → writesPc i = false → t.pc = s.pc

/-- R71, R72: only ST, STI and STR change a word of memory other than KBSR and KBDR; those two change besides
only by a poll, which GETC, OUT, IN and HALT never make. -/
def Obligations.OnlyStoresAndPollsChangeMemory : Prop :=
  ∀ (i : Instr) (s t : State), exec i s = .next t →
    (isStore i = false → ∀ a : Word, a ≠ Config.kbsrAddr → a ≠ Config.kbdrAddr →
      t.mem.read a = s.mem.read a) ∧
    (isStore i = false → t.keyboard.polls = s.keyboard.polls → SameWords s t) ∧
    (i = .trapGetc ∨ i = .trapOut ∨ i = .trapIn ∨ i = .trapHalt → SameWords s t)

/-- R112, R147, R148: what an instruction may leave RUN at. HALTED comes from HALT alone, FAULT from RTI, RES and
an unknown vector alone, DEVICE_ERROR from a ReadKey of GETC or IN or a poll of LD, LDI, LDR, STI, PUTS or
PUTSP alone, and no instruction leaves ABORTED. -/
def Obligations.RunEndsOnlyByItsCauses : Prop :=
  ∀ (i : Instr) (s t : State), s.run = .running → exec i s = .next t → mayEndAs i t.run

/-- Every step of a running machine answers a next state: no instruction is refused, and no address, alignment or
overflow faults (R50, R59, R75, R108, R147). A string that has not ended is a next state too (log 15). -/
def Obligations.EveryRunningStepCompletes : Prop :=
  ∀ s : State, s.run = .running → ∃ t, step s = .next t

/-- R142, R166: the console only grows, at its end, whatever the step does. -/
def Obligations.ConsoleIsAppendOnly : Prop :=
  ∀ s t : State, step s = .next t → ∃ out, t.console = s.console ++ out

/-- R165: input events are consumed in order, each once, and a draw is true only if there is a next event. -/
def Obligations.InputIsConsumedInOrder : Prop :=
  (∀ s t : State, step s = .next t → ∃ taken, Took s.keyboard taken t.keyboard) ∧
  (∀ s : State, s.keyAvailable = true → ∃ e rest, s.keyboard.next = some (e, rest))

/-! ## Reset and the invariant -/

/-- R45, R46, R47, for every INITIAL_PC, MEM0 and KEYBOARD (R11): the state at the first fetch. -/
def Obligations.StartValues : Prop :=
  ∀ (pc0 : Word) (mem0 : Memory) (kbd : Keyboard) (sig : Option Nat) (s : State),
    s = State.start pc0 mem0 kbd sig →
    (∀ r, s.reg r = 0x0000#16) ∧ s.pc = pc0 ∧ s.cond = 0b010#3 ∧ s.mem = mem0 ∧ s.run = .running ∧
    s.console = [] ∧ s.keyboard = kbd

/-- The state right after reset: registers zero, COND Z, RUN RUNNING, no output (R45, R46). That nothing is loaded,
so that every word reads x0000 (R47), is the model's choice of MEM0 (log 6), and so are its pc x3000, its silent
keyboard and that no signal is on its way (log 5, log 8, log 11). -/
def Obligations.ResetValues : Prop :=
  (∀ r, State.reset.reg r = 0x0000#16) ∧ State.reset.cond = 0b010#3 ∧
  (∀ a : Word, State.reset.mem.read a = 0x0000#16) ∧ State.reset.run = .running ∧
  State.reset.console = [] ∧ State.reset.pc = 0x3000#16 ∧ State.reset.hold = none ∧
  State.reset.signalAt = none ∧ State.reset.keyboard.next = none

/-- The invariant holds at the start of every run whose loaded memory is in canonical form, reset's among them
(R29, R46). -/
def Obligations.InvariantHoldsAtStart : Prop :=
  State.reset.Inv ∧
  ∀ (pc0 : Word) (mem0 : Memory) (kbd : Keyboard) (sig : Option Nat),
    mem0.wf = true → (State.start pc0 mem0 kbd sig).Inv

/-- R29, R41, R167: every step keeps the invariant. COND stays one-hot, the engine holds only inside a run, the
flush record stays inside the console, and memory keeps its canonical form. -/
def Obligations.EveryStepKeepsInvariant : Prop :=
  ∀ s t : State, s.Inv → step s = .next t → t.Inv

/-! ## The loader -/

/-- R176, R177, R178: an image whose words fit up to xFFFF is stored at consecutive addresses from its origin,
every other word as before; a file's words are big-endian. -/
def Obligations.ImageIsStoredAtItsOrigin : Prop :=
  (∀ (hi lo : Byte) (rest : List Byte) (ws : List Word), imageWords rest = some ws →
    ∃ w, imageWords (hi :: lo :: rest) = some (w :: ws) ∧ w.toNat = 256 * hi.toNat + lo.toNat) ∧
  (∀ (bytes : List Byte) (origin : Word) (ws : List Word) (m : Memory),
    imageWords bytes = some (origin :: ws) → origin.toNat + ws.length ≤ 65536 →
    ∃ m', loadImage (some bytes) m = some m' ∧
      ∀ a : Word, m'.read a =
        if origin.toNat ≤ a.toNat ∧ a.toNat < origin.toNat + ws.length
        then ws.getD (a.toNat - origin.toNat) 0#16 else m.read a)

/-- R178, R179, R149: what is a LoadError, and that a run does not start with a LoadError in any of its images,
wherever it stands among the arguments, or without an image (the spec's decision D19 for odd lengths, short files and
the order of loading). -/
def Obligations.LoadErrorsStopTheLaunch : Prop :=
  (∀ m : Memory, loadImage none m = none) ∧
  (∀ (bytes : List Byte) (m : Memory), bytes.length < 2 ∨ bytes.length % 2 = 1 →
    loadImage (some bytes) m = none) ∧
  (∀ (bytes : List Byte) (origin : Word) (ws : List Word) (m : Memory),
    imageWords bytes = some (origin :: ws) → 65536 < origin.toNat + ws.length →
    loadImage (some bytes) m = none) ∧
  (∀ (pre post : List (Option (List Byte))) (f : Option (List Byte)) (m : Memory) (pc0 : Word)
    (kbd : Keyboard) (sig : Option Nat), loadImages pre [] = some m → loadImage f m = none →
    launch (pre ++ f :: post) pc0 kbd sig = .fault .loadError) ∧
  (∀ (pc0 : Word) (kbd : Keyboard) (sig : Option Nat), launch [] pc0 kbd sig = .fault .noImage)
end

