-- ==== Sys2Proof/Laws/Decode.lean ====
section
/-! SUPPORT. Slices of concatenated fields: what the decoder reads back from a word the encoder built. -/

namespace Sys2Proof

/-- A slice that lies in the upper part of a concatenation. -/
theorem extract_append_upper {n m : Nat} (x : BitVec n) (y : BitVec m) (lo len : Nat) (h : m ≤ lo) :
    (x ++ y).extractLsb' lo len = x.extractLsb' (lo - m) len := by
  ext i hi
  have : ¬ lo + i < m := by omega
  simp only [BitVec.getElem_extractLsb', BitVec.getLsbD_append, this, if_false]
  rw [show lo + i - m = lo - m + i by omega]

/-- A slice that lies in the lower part of a concatenation. -/
theorem extract_append_lower {n m : Nat} (x : BitVec n) (y : BitVec m) (lo len : Nat)
    (h : lo + len ≤ m) : (x ++ y).extractLsb' lo len = y.extractLsb' lo len := by
  ext i hi
  have : lo + i < m := by omega
  simp [BitVec.getLsbD_append, this]

/-- A mask on a concatenation acts on each part. -/
theorem and_mask_append {n m : Nat} (x h k : BitVec n) (y g l : BitVec m) (hx : x &&& h = k)
    (hy : y &&& g = l) : (x ++ y) &&& (h ++ g) = k ++ l := by
  rw [BitVec.and_append, hx, hy]

/-- A register's field names the register (R22, R90). -/
@[simp] theorem Reg.ofBits_toBits (r : Reg) : Reg.ofBits r.toBits = r := by
  cases r <;> rfl

/-- The field of the register a field names is that field (R22, R90). -/
@[simp] theorem Reg.toBits_ofBits (b : BitVec 3) : (Reg.ofBits b).toBits = b := by
  revert b
  decide

/-! ## The fields of each format -/

@[simp] theorem formatTwoReg_op (op : BitVec 4) (a b : BitVec 3) (low : BitVec 6) :
    (formatTwoReg op a b low).extractLsb' 12 4 = op :=
  (extract_append_upper _ _ 12 4 (by decide)).trans <|
    (extract_append_upper _ _ 6 4 (by decide)).trans <|
      (extract_append_upper _ _ 3 4 (by decide)).trans BitVec.extractLsb'_eq_self

@[simp] theorem formatTwoReg_a (op : BitVec 4) (a b : BitVec 3) (low : BitVec 6) :
    (formatTwoReg op a b low).extractLsb' 9 3 = a :=
  (extract_append_upper _ _ 9 3 (by decide)).trans <|
    (extract_append_upper _ _ 3 3 (by decide)).trans <|
      (extract_append_lower _ _ 0 3 (by decide)).trans BitVec.extractLsb'_eq_self

@[simp] theorem formatTwoReg_b (op : BitVec 4) (a b : BitVec 3) (low : BitVec 6) :
    (formatTwoReg op a b low).extractLsb' 6 3 = b :=
  (extract_append_upper _ _ 6 3 (by decide)).trans <|
    (extract_append_lower _ _ 0 3 (by decide)).trans BitVec.extractLsb'_eq_self

/-- A slice of the six low bits. -/
theorem formatTwoReg_low (op : BitVec 4) (a b : BitVec 3) (low : BitVec 6) (lo len : Nat)
    (h : lo + len ≤ 6) : (formatTwoReg op a b low).extractLsb' lo len = low.extractLsb' lo len :=
  extract_append_lower _ _ lo len h

@[simp] theorem formatTwoReg_low6 (op : BitVec 4) (a b : BitVec 3) (low : BitVec 6) :
    (formatTwoReg op a b low).extractLsb' 0 6 = low :=
  (formatTwoReg_low op a b low 0 6 (by decide)).trans BitVec.extractLsb'_eq_self

@[simp] theorem formatTwoReg_low5 (op : BitVec 4) (a b : BitVec 3) (imm : BitVec 5) :
    (formatTwoReg op a b (lowOpI imm)).extractLsb' 0 5 = imm :=
  (formatTwoReg_low op a b _ 0 5 (by decide)).trans <|
    (extract_append_lower _ _ 0 5 (by decide)).trans BitVec.extractLsb'_eq_self

@[simp] theorem formatTwoReg_low3 (op : BitVec 4) (a b : BitVec 3) (sr2 : Reg) :
    (formatTwoReg op a b (lowOpR sr2)).extractLsb' 0 3 = sr2.toBits :=
  (formatTwoReg_low op a b _ 0 3 (by decide)).trans (by cases sr2 <;> rfl)

/-- The mode bit of OP-R and OP-I is bit 5 of the six low bits (R91). -/
theorem formatTwoReg_mode (op : BitVec 4) (a b : BitVec 3) (low : BitVec 6) :
    (formatTwoReg op a b low).getLsbD 5 = low.getLsbD 5 :=
  BitVec.getLsbD_append.trans (if_pos (by decide))

@[simp] theorem formatTwoReg_modeR (op : BitVec 4) (a b : BitVec 3) (sr2 : Reg) :
    (formatTwoReg op a b (lowOpR sr2))[5] = false :=
  (formatTwoReg_mode op a b _).trans (by cases sr2 <;> rfl)

@[simp] theorem formatTwoReg_modeI (op : BitVec 4) (a b : BitVec 3) (imm : BitVec 5) :
    (formatTwoReg op a b (lowOpI imm))[5] = true :=
  (formatTwoReg_mode op a b _).trans (BitVec.getLsbD_append.trans (if_neg (by decide)))

@[simp] theorem formatPc9_op (op : BitVec 4) (a : BitVec 3) (off : BitVec 9) :
    (formatPc9 op a off).extractLsb' 12 4 = op :=
  (extract_append_upper _ _ 12 4 (by decide)).trans <|
    (extract_append_upper _ _ 3 4 (by decide)).trans BitVec.extractLsb'_eq_self

@[simp] theorem formatPc9_a (op : BitVec 4) (a : BitVec 3) (off : BitVec 9) :
    (formatPc9 op a off).extractLsb' 9 3 = a :=
  (extract_append_upper _ _ 9 3 (by decide)).trans <|
    (extract_append_lower _ _ 0 3 (by decide)).trans BitVec.extractLsb'_eq_self

@[simp] theorem formatPc9_offset (op : BitVec 4) (a : BitVec 3) (off : BitVec 9) :
    (formatPc9 op a off).extractLsb' 0 9 = off :=
  (extract_append_lower _ _ 0 9 (by decide)).trans BitVec.extractLsb'_eq_self

@[simp] theorem formatJ11_op (op : BitVec 4) (mode : BitVec 1) (off : BitVec 11) :
    (formatJ11 op mode off).extractLsb' 12 4 = op :=
  (extract_append_upper _ _ 12 4 (by decide)).trans <|
    (extract_append_upper _ _ 1 4 (by decide)).trans BitVec.extractLsb'_eq_self

@[simp] theorem formatJ11_mode (op : BitVec 4) (off : BitVec 11) :
    (formatJ11 op 0b1#1 off)[11] = true :=
  BitVec.getLsbD_append.trans <|
    (if_neg (by decide)).trans (BitVec.getLsbD_append.trans (if_pos (by decide)))

@[simp] theorem formatJ11_offset (op : BitVec 4) (mode : BitVec 1) (off : BitVec 11) :
    (formatJ11 op mode off).extractLsb' 0 11 = off :=
  (extract_append_lower _ _ 0 11 (by decide)).trans BitVec.extractLsb'_eq_self

@[simp] theorem formatTrap_op (v : Byte) : (formatTrap v).extractLsb' 12 4 = 0xF#4 :=
  (extract_append_upper _ _ 12 4 (by decide)).trans (by decide)

@[simp] theorem formatTrap_vector (v : Byte) : (formatTrap v).extractLsb' 0 8 = v :=
  (extract_append_lower _ _ 0 8 (by decide)).trans BitVec.extractLsb'_eq_self

/-! ## The fields of a word under a row's mask -/

/-- A slice the mask keeps is the match's slice. -/
theorem slice_of_match {w mask pattern : Word} (h : w &&& mask = pattern) (lo len : Nat)
    (hm : mask.extractLsb' lo len = BitVec.allOnes len) :
    w.extractLsb' lo len = pattern.extractLsb' lo len := by
  have h' := congrArg (BitVec.extractLsb' lo len) h
  rwa [BitVec.extractLsb'_and, hm, BitVec.and_allOnes] at h'

/-- A bit the mask keeps is the match's bit. -/
theorem bit_of_match {w mask pattern : Word} (h : w &&& mask = pattern) (i : Nat)
    (hm : mask.getLsbD i = true) : w.getLsbD i = pattern.getLsbD i := by
  have h' := congrArg (fun x => BitVec.getLsbD x i) h
  simpa [hm] using h'

end Sys2Proof
end

