-- ==== Sys2Proof/Laws/Memory.lean ====
section
/-! SUPPORT. The laws of memory: a read after a write, in any list; the canonical form, which every operation keeps and in which equal reads mean equal memories. -/

namespace Sys2Proof.Machine

/-! ## Read after write -/

theorem Memory.readAt_eraseAt (m : Memory) (a b : Nat) :
    (m.eraseAt a).readAt b = if b = a then 0#16 else m.readAt b := by
  induction m with
  | nil => simp [Memory.eraseAt, Memory.readAt]
  | cons c m ih =>
    by_cases hc : c.1 = a
    · simp only [Memory.eraseAt, if_pos hc, ih, Memory.readAt]
      split
      · rfl
      · rw [if_neg (by omega)]
    · simp only [Memory.eraseAt, if_neg hc, Memory.readAt, ih]
      by_cases hb : c.1 = b
      · rw [if_pos hb, if_pos hb, if_neg (by omega)]
      · rw [if_neg hb, if_neg hb]

theorem Memory.readAt_insertAt (m : Memory) (a b : Nat) (v : Word)
    (h : ∀ c ∈ m, c.1 ≠ a) :
    (m.insertAt a v).readAt b = if b = a then v else m.readAt b := by
  induction m with
  | nil => simp only [Memory.insertAt, Memory.readAt, eq_comm]
  | cons c m ih =>
    have hc : c.1 ≠ a := h c (by simp)
    have hm := ih (fun d hd => h d (by simp [hd]))
    by_cases hlt : a < c.1
    · simp only [Memory.insertAt, if_pos hlt, Memory.readAt, eq_comm]
    · simp only [Memory.insertAt, if_neg hlt, Memory.readAt, hm]
      by_cases hb : c.1 = b
      · rw [if_pos hb, if_pos hb, if_neg (by omega)]
      · rw [if_neg hb, if_neg hb]

theorem Memory.eraseAt_no_key (m : Memory) (a : Nat) : ∀ c ∈ m.eraseAt a, c.1 ≠ a := by
  induction m with
  | nil => simp [Memory.eraseAt]
  | cons c m ih =>
    intro d hd
    by_cases hc : c.1 = a
    · exact ih d (by simpa [Memory.eraseAt, hc] using hd)
    · simp only [Memory.eraseAt, if_neg hc, List.mem_cons] at hd
      rcases hd with rfl | hd
      · exact hc
      · exact ih d hd

/-- A read after a write: the word written at its address, every other word as before (R51, R52). -/
@[simp] theorem Memory.read_write (m : Memory) (a b v : Word) :
    (m.write a v).read b = if b = a then v else m.read b := by
  have key : (b.toNat = a.toNat) = (b = a) := propext BitVec.toNat_inj
  unfold Memory.read Memory.write Memory.writeAt
  split
  · next h => simp only [Memory.readAt_eraseAt, h, key]
  · simp only [Memory.readAt_insertAt _ _ _ _ (Memory.eraseAt_no_key m _), Memory.readAt_eraseAt, key]
    split <;> rfl

/-! ## The canonical form -/

theorem Memory.wf_cons (c : Nat × Word) (m : Memory) :
    Memory.wf (c :: m) = true ↔
      c.1 < 65536 ∧ c.2 ≠ 0#16 ∧ (∀ d ∈ m, c.1 < d.1) ∧ Memory.wf m = true := by
  induction m generalizing c with
  | nil => simp [Memory.wf]
  | cons d m ih =>
    have h := ih d
    simp only [Memory.wf, Bool.and_eq_true, decide_eq_true_eq, bne_iff_ne, List.mem_cons,
      forall_eq_or_imp]
    constructor
    · rintro ⟨⟨hcd, hc⟩, hm⟩
      have ⟨h1, _, h3, _⟩ := h.mp hm
      exact ⟨by omega, hc, ⟨hcd, fun e he => by have := h3 e he; omega⟩, hm⟩
    · rintro ⟨_, hc, ⟨hcd, _⟩, hm⟩
      exact ⟨⟨hcd, hc⟩, hm⟩

theorem Memory.mem_eraseAt {m : Memory} {a : Nat} {d : Nat × Word} (h : d ∈ m.eraseAt a) : d ∈ m := by
  induction m with
  | nil => exact h
  | cons c m ih =>
    by_cases hc : c.1 = a
    · exact List.mem_cons_of_mem _ (ih (by simpa [Memory.eraseAt, hc] using h))
    · simp only [Memory.eraseAt, if_neg hc, List.mem_cons] at h
      rcases h with rfl | h
      · simp
      · exact List.mem_cons_of_mem _ (ih h)

theorem Memory.mem_insertAt {m : Memory} {a : Nat} {v : Word} {d : Nat × Word}
    (h : d ∈ m.insertAt a v) : d = (a, v) ∨ d ∈ m := by
  induction m with
  | nil => simpa [Memory.insertAt] using h
  | cons c m ih =>
    by_cases hlt : a < c.1
    · simpa [Memory.insertAt, hlt] using h
    · simp only [Memory.insertAt, if_neg hlt, List.mem_cons] at h ⊢
      rcases h with rfl | h
      · exact .inr (.inl rfl)
      · exact (ih h).imp id .inr

theorem Memory.eraseAt_wf {m : Memory} (a : Nat) (h : m.wf = true) : (m.eraseAt a).wf = true := by
  induction m with
  | nil => rfl
  | cons c m ih =>
    have ⟨h1, h2, h3, h4⟩ := (Memory.wf_cons c m).mp h
    by_cases hc : c.1 = a
    · simpa [Memory.eraseAt, hc] using ih h4
    · simp only [Memory.eraseAt, if_neg hc]
      exact (Memory.wf_cons _ _).mpr ⟨h1, h2, fun d hd => h3 d (Memory.mem_eraseAt hd), ih h4⟩

theorem Memory.insertAt_wf {m : Memory} {a : Nat} {v : Word} (ha : a < 65536) (hv : v ≠ 0#16)
    (hk : ∀ c ∈ m, c.1 ≠ a) (h : m.wf = true) : (m.insertAt a v).wf = true := by
  induction m with
  | nil => exact (Memory.wf_cons _ _).mpr ⟨ha, hv, by simp, rfl⟩
  | cons c m ih =>
    have ⟨h1, h2, h3, h4⟩ := (Memory.wf_cons c m).mp h
    have hc : c.1 ≠ a := hk c (by simp)
    by_cases hlt : a < c.1
    · simp only [Memory.insertAt, if_pos hlt]
      refine (Memory.wf_cons _ _).mpr ⟨ha, hv, fun d hd => ?_, h⟩
      rcases List.mem_cons.mp hd with rfl | hd
      · exact hlt
      · have := h3 d hd
        dsimp only at hlt ⊢
        omega
    · simp only [Memory.insertAt, if_neg hlt]
      refine (Memory.wf_cons _ _).mpr
        ⟨h1, h2, fun d hd => ?_, ih (fun d hd => hk d (by simp [hd])) h4⟩
      rcases Memory.mem_insertAt hd with rfl | hd
      · dsimp only; omega
      · exact h3 d hd

/-- A write keeps the canonical form. -/
theorem Memory.write_wf {m : Memory} (a v : Word) (h : m.wf = true) : (m.write a v).wf = true := by
  unfold Memory.write Memory.writeAt
  split
  · exact Memory.eraseAt_wf _ h
  · next hv =>
    exact Memory.insertAt_wf a.isLt hv (Memory.eraseAt_no_key m _) (Memory.eraseAt_wf _ h)

/-- An address below every entry reads x0000. -/
theorem Memory.readAt_below {m : Memory} {a : Nat} (h : ∀ d ∈ m, a < d.1) : m.readAt a = 0#16 := by
  induction m with
  | nil => rfl
  | cons c m ih =>
    have := h c (by simp)
    simp only [Memory.readAt, if_neg (show c.1 ≠ a by omega)]
    exact ih (fun d hd => h d (by simp [hd]))

end Sys2Proof.Machine
end

