-- ==== Sys2Proof/Laws/State.lean ====
section
/-! SUPPORT. One lemma per field per update of the state, so that no later proof unfolds a record update. -/

namespace Sys2Proof.Machine

/-- A register read after a register write. -/
@[simp] theorem RegFile.get_set (f : RegFile) (d r : Reg) (v : Word) :
    (f.set d v).get r = if r = d then v else f.get r := by
  cases d <;> cases r <;> rfl

theorem State.reg_eq (s : State) (r : Reg) : s.reg r = s.regs.get r := rfl

/-! ### setReg -/

@[simp] theorem State.setReg_regs (s : State) (r : Reg) (v : Word) : (s.setReg r v).regs = s.regs.set r v := rfl
@[simp] theorem State.setReg_pc (s : State) (r : Reg) (v : Word) : (s.setReg r v).pc = s.pc := rfl
@[simp] theorem State.setReg_cond (s : State) (r : Reg) (v : Word) : (s.setReg r v).cond = s.cond := rfl
@[simp] theorem State.setReg_mem (s : State) (r : Reg) (v : Word) : (s.setReg r v).mem = s.mem := rfl
@[simp] theorem State.setReg_run (s : State) (r : Reg) (v : Word) : (s.setReg r v).run = s.run := rfl
@[simp] theorem State.setReg_hold (s : State) (r : Reg) (v : Word) : (s.setReg r v).hold = s.hold := rfl
@[simp] theorem State.setReg_keyboard (s : State) (r : Reg) (v : Word) : (s.setReg r v).keyboard = s.keyboard := rfl
@[simp] theorem State.setReg_console (s : State) (r : Reg) (v : Word) : (s.setReg r v).console = s.console := rfl
@[simp] theorem State.setReg_flushed (s : State) (r : Reg) (v : Word) : (s.setReg r v).flushed = s.flushed := rfl
@[simp] theorem State.setReg_signalAt (s : State) (r : Reg) (v : Word) : (s.setReg r v).signalAt = s.signalAt := rfl
@[simp] theorem State.setReg_reg (s : State) (r : Reg) (v : Word) (q : Reg) :
    (s.setReg r v).reg q = if q = r then v else s.reg q := RegFile.get_set _ _ _ _

/-! ### setPc -/

@[simp] theorem State.setPc_regs (s : State) (t : Word) : (s.setPc t).regs = s.regs := rfl
@[simp] theorem State.setPc_pc (s : State) (t : Word) : (s.setPc t).pc = t := rfl
@[simp] theorem State.setPc_cond (s : State) (t : Word) : (s.setPc t).cond = s.cond := rfl
@[simp] theorem State.setPc_mem (s : State) (t : Word) : (s.setPc t).mem = s.mem := rfl
@[simp] theorem State.setPc_run (s : State) (t : Word) : (s.setPc t).run = s.run := rfl
@[simp] theorem State.setPc_hold (s : State) (t : Word) : (s.setPc t).hold = s.hold := rfl
@[simp] theorem State.setPc_keyboard (s : State) (t : Word) : (s.setPc t).keyboard = s.keyboard := rfl
@[simp] theorem State.setPc_console (s : State) (t : Word) : (s.setPc t).console = s.console := rfl
@[simp] theorem State.setPc_flushed (s : State) (t : Word) : (s.setPc t).flushed = s.flushed := rfl
@[simp] theorem State.setPc_signalAt (s : State) (t : Word) : (s.setPc t).signalAt = s.signalAt := rfl
@[simp] theorem State.setPc_reg (s : State) (t : Word) (q : Reg) : (s.setPc t).reg q = s.reg q := rfl

/-! ### setCond -/

@[simp] theorem State.setCond_regs (s : State) (c : BitVec 3) : (s.setCond c).regs = s.regs := rfl
@[simp] theorem State.setCond_pc (s : State) (c : BitVec 3) : (s.setCond c).pc = s.pc := rfl
@[simp] theorem State.setCond_cond (s : State) (c : BitVec 3) : (s.setCond c).cond = c := rfl
@[simp] theorem State.setCond_mem (s : State) (c : BitVec 3) : (s.setCond c).mem = s.mem := rfl
@[simp] theorem State.setCond_run (s : State) (c : BitVec 3) : (s.setCond c).run = s.run := rfl
@[simp] theorem State.setCond_hold (s : State) (c : BitVec 3) : (s.setCond c).hold = s.hold := rfl
@[simp] theorem State.setCond_keyboard (s : State) (c : BitVec 3) : (s.setCond c).keyboard = s.keyboard := rfl
@[simp] theorem State.setCond_console (s : State) (c : BitVec 3) : (s.setCond c).console = s.console := rfl
@[simp] theorem State.setCond_flushed (s : State) (c : BitVec 3) : (s.setCond c).flushed = s.flushed := rfl
@[simp] theorem State.setCond_signalAt (s : State) (c : BitVec 3) : (s.setCond c).signalAt = s.signalAt := rfl
@[simp] theorem State.setCond_reg (s : State) (c : BitVec 3) (q : Reg) : (s.setCond c).reg q = s.reg q := rfl

/-! ### setcc -/

@[simp] theorem State.setcc_regs (s : State) (v : Word) : (s.setcc v).regs = s.regs := rfl
@[simp] theorem State.setcc_pc (s : State) (v : Word) : (s.setcc v).pc = s.pc := rfl
@[simp] theorem State.setcc_cond (s : State) (v : Word) : (s.setcc v).cond = condOf v := rfl
@[simp] theorem State.setcc_mem (s : State) (v : Word) : (s.setcc v).mem = s.mem := rfl
@[simp] theorem State.setcc_run (s : State) (v : Word) : (s.setcc v).run = s.run := rfl
@[simp] theorem State.setcc_hold (s : State) (v : Word) : (s.setcc v).hold = s.hold := rfl
@[simp] theorem State.setcc_keyboard (s : State) (v : Word) : (s.setcc v).keyboard = s.keyboard := rfl
@[simp] theorem State.setcc_console (s : State) (v : Word) : (s.setcc v).console = s.console := rfl
@[simp] theorem State.setcc_flushed (s : State) (v : Word) : (s.setcc v).flushed = s.flushed := rfl
@[simp] theorem State.setcc_signalAt (s : State) (v : Word) : (s.setcc v).signalAt = s.signalAt := rfl
@[simp] theorem State.setcc_reg (s : State) (v : Word) (q : Reg) : (s.setcc v).reg q = s.reg q := rfl

/-! ### writeDest -/

@[simp] theorem State.writeDest_regs (s : State) (r : Reg) (v : Word) : (s.writeDest r v).regs = s.regs.set r v := rfl
@[simp] theorem State.writeDest_pc (s : State) (r : Reg) (v : Word) : (s.writeDest r v).pc = s.pc := rfl
@[simp] theorem State.writeDest_cond (s : State) (r : Reg) (v : Word) : (s.writeDest r v).cond = condOf v := rfl
@[simp] theorem State.writeDest_mem (s : State) (r : Reg) (v : Word) : (s.writeDest r v).mem = s.mem := rfl
@[simp] theorem State.writeDest_run (s : State) (r : Reg) (v : Word) : (s.writeDest r v).run = s.run := rfl
@[simp] theorem State.writeDest_hold (s : State) (r : Reg) (v : Word) : (s.writeDest r v).hold = s.hold := rfl
@[simp] theorem State.writeDest_keyboard (s : State) (r : Reg) (v : Word) : (s.writeDest r v).keyboard = s.keyboard := rfl
@[simp] theorem State.writeDest_console (s : State) (r : Reg) (v : Word) : (s.writeDest r v).console = s.console := rfl
@[simp] theorem State.writeDest_flushed (s : State) (r : Reg) (v : Word) : (s.writeDest r v).flushed = s.flushed := rfl
@[simp] theorem State.writeDest_signalAt (s : State) (r : Reg) (v : Word) : (s.writeDest r v).signalAt = s.signalAt := rfl
@[simp] theorem State.writeDest_reg (s : State) (r : Reg) (v : Word) (q : Reg) :
    (s.writeDest r v).reg q = if q = r then v else s.reg q := RegFile.get_set _ _ _ _

/-! ### memWrite -/

@[simp] theorem State.memWrite_regs (s : State) (a v : Word) : (s.memWrite a v).regs = s.regs := rfl
@[simp] theorem State.memWrite_pc (s : State) (a v : Word) : (s.memWrite a v).pc = s.pc := rfl
@[simp] theorem State.memWrite_cond (s : State) (a v : Word) : (s.memWrite a v).cond = s.cond := rfl
@[simp] theorem State.memWrite_mem (s : State) (a v : Word) : (s.memWrite a v).mem = s.mem.write a v := rfl
@[simp] theorem State.memWrite_run (s : State) (a v : Word) : (s.memWrite a v).run = s.run := rfl
@[simp] theorem State.memWrite_hold (s : State) (a v : Word) : (s.memWrite a v).hold = s.hold := rfl
@[simp] theorem State.memWrite_keyboard (s : State) (a v : Word) : (s.memWrite a v).keyboard = s.keyboard := rfl
@[simp] theorem State.memWrite_console (s : State) (a v : Word) : (s.memWrite a v).console = s.console := rfl
@[simp] theorem State.memWrite_flushed (s : State) (a v : Word) : (s.memWrite a v).flushed = s.flushed := rfl
@[simp] theorem State.memWrite_signalAt (s : State) (a v : Word) : (s.memWrite a v).signalAt = s.signalAt := rfl
@[simp] theorem State.memWrite_reg (s : State) (a v : Word) (q : Reg) : (s.memWrite a v).reg q = s.reg q := rfl

/-! ### afterQuery -/

@[simp] theorem State.afterQuery_regs (s : State) : (s.afterQuery).regs = s.regs := rfl
@[simp] theorem State.afterQuery_pc (s : State) : (s.afterQuery).pc = s.pc := rfl
@[simp] theorem State.afterQuery_cond (s : State) : (s.afterQuery).cond = s.cond := rfl
@[simp] theorem State.afterQuery_mem (s : State) : (s.afterQuery).mem = s.mem := rfl
@[simp] theorem State.afterQuery_run (s : State) : (s.afterQuery).run = s.run := rfl
@[simp] theorem State.afterQuery_hold (s : State) : (s.afterQuery).hold = s.hold := rfl
@[simp] theorem State.afterQuery_keyboard (s : State) : (s.afterQuery).keyboard = s.keyboard.afterDraw := rfl
@[simp] theorem State.afterQuery_console (s : State) : (s.afterQuery).console = s.console := rfl
@[simp] theorem State.afterQuery_flushed (s : State) : (s.afterQuery).flushed = s.flushed := rfl
@[simp] theorem State.afterQuery_signalAt (s : State) : (s.afterQuery).signalAt = s.signalAt := rfl
@[simp] theorem State.afterQuery_reg (s : State) (q : Reg) : (s.afterQuery).reg q = s.reg q := rfl

/-! ### consoleOut -/

@[simp] theorem State.consoleOut_regs (s : State) (bs : List Byte) : (s.consoleOut bs).regs = s.regs := rfl
@[simp] theorem State.consoleOut_pc (s : State) (bs : List Byte) : (s.consoleOut bs).pc = s.pc := rfl
@[simp] theorem State.consoleOut_cond (s : State) (bs : List Byte) : (s.consoleOut bs).cond = s.cond := rfl
@[simp] theorem State.consoleOut_mem (s : State) (bs : List Byte) : (s.consoleOut bs).mem = s.mem := rfl
@[simp] theorem State.consoleOut_run (s : State) (bs : List Byte) : (s.consoleOut bs).run = s.run := rfl
@[simp] theorem State.consoleOut_hold (s : State) (bs : List Byte) : (s.consoleOut bs).hold = s.hold := rfl
@[simp] theorem State.consoleOut_keyboard (s : State) (bs : List Byte) : (s.consoleOut bs).keyboard = s.keyboard := rfl
@[simp] theorem State.consoleOut_console (s : State) (bs : List Byte) : (s.consoleOut bs).console = s.console ++ bs := rfl
@[simp] theorem State.consoleOut_flushed (s : State) (bs : List Byte) : (s.consoleOut bs).flushed = s.flushed := rfl
@[simp] theorem State.consoleOut_signalAt (s : State) (bs : List Byte) : (s.consoleOut bs).signalAt = s.signalAt := rfl
@[simp] theorem State.consoleOut_reg (s : State) (bs : List Byte) (q : Reg) : (s.consoleOut bs).reg q = s.reg q := rfl

/-! ### consoleFlush -/

@[simp] theorem State.consoleFlush_regs (s : State) : (s.consoleFlush).regs = s.regs := rfl
@[simp] theorem State.consoleFlush_pc (s : State) : (s.consoleFlush).pc = s.pc := rfl
@[simp] theorem State.consoleFlush_cond (s : State) : (s.consoleFlush).cond = s.cond := rfl
@[simp] theorem State.consoleFlush_mem (s : State) : (s.consoleFlush).mem = s.mem := rfl
@[simp] theorem State.consoleFlush_run (s : State) : (s.consoleFlush).run = s.run := rfl
@[simp] theorem State.consoleFlush_hold (s : State) : (s.consoleFlush).hold = s.hold := rfl
@[simp] theorem State.consoleFlush_keyboard (s : State) : (s.consoleFlush).keyboard = s.keyboard := rfl
@[simp] theorem State.consoleFlush_console (s : State) : (s.consoleFlush).console = s.console := rfl
@[simp] theorem State.consoleFlush_flushed (s : State) : (s.consoleFlush).flushed = s.console.length := rfl
@[simp] theorem State.consoleFlush_signalAt (s : State) : (s.consoleFlush).signalAt = s.signalAt := rfl
@[simp] theorem State.consoleFlush_reg (s : State) (q : Reg) : (s.consoleFlush).reg q = s.reg q := rfl

/-! ### endRun -/

@[simp] theorem State.endRun_regs (s : State) (r : RunState) : (s.endRun r).regs = s.regs := rfl
@[simp] theorem State.endRun_pc (s : State) (r : RunState) : (s.endRun r).pc = s.pc := rfl
@[simp] theorem State.endRun_cond (s : State) (r : RunState) : (s.endRun r).cond = s.cond := rfl
@[simp] theorem State.endRun_mem (s : State) (r : RunState) : (s.endRun r).mem = s.mem := rfl
@[simp] theorem State.endRun_run (s : State) (r : RunState) : (s.endRun r).run = r := rfl
@[simp] theorem State.endRun_hold (s : State) (r : RunState) : (s.endRun r).hold = none := rfl
@[simp] theorem State.endRun_keyboard (s : State) (r : RunState) : (s.endRun r).keyboard = s.keyboard := rfl
@[simp] theorem State.endRun_console (s : State) (r : RunState) : (s.endRun r).console = s.console := rfl
@[simp] theorem State.endRun_flushed (s : State) (r : RunState) : (s.endRun r).flushed = s.flushed := rfl
@[simp] theorem State.endRun_signalAt (s : State) (r : RunState) : (s.endRun r).signalAt = s.signalAt := rfl
@[simp] theorem State.endRun_reg (s : State) (r : RunState) (q : Reg) : (s.endRun r).reg q = s.reg q := rfl

/-! ### tick -/

@[simp] theorem State.tick_regs (s : State) : (s.tick).regs = s.regs := rfl
@[simp] theorem State.tick_pc (s : State) : (s.tick).pc = s.pc := rfl
@[simp] theorem State.tick_cond (s : State) : (s.tick).cond = s.cond := rfl
@[simp] theorem State.tick_mem (s : State) : (s.tick).mem = s.mem := rfl
@[simp] theorem State.tick_run (s : State) : (s.tick).run = s.run := rfl
@[simp] theorem State.tick_hold (s : State) : (s.tick).hold = s.hold := rfl
@[simp] theorem State.tick_keyboard (s : State) : (s.tick).keyboard = s.keyboard := rfl
@[simp] theorem State.tick_console (s : State) : (s.tick).console = s.console := rfl
@[simp] theorem State.tick_flushed (s : State) : (s.tick).flushed = s.flushed := rfl
@[simp] theorem State.tick_signalAt (s : State) : (s.tick).signalAt = s.signalAt.map (· - 1) := rfl
@[simp] theorem State.tick_reg (s : State) (q : Reg) : (s.tick).reg q = s.reg q := rfl

/-! ### trapEntry -/

@[simp] theorem State.trapEntry_regs (s : State) : (s.trapEntry).regs = s.regs.set .r7 s.pc := rfl
@[simp] theorem State.trapEntry_pc (s : State) : (s.trapEntry).pc = s.pc := rfl
@[simp] theorem State.trapEntry_cond (s : State) : (s.trapEntry).cond = s.cond := rfl
@[simp] theorem State.trapEntry_mem (s : State) : (s.trapEntry).mem = s.mem := rfl
@[simp] theorem State.trapEntry_run (s : State) : (s.trapEntry).run = s.run := rfl
@[simp] theorem State.trapEntry_hold (s : State) : (s.trapEntry).hold = s.hold := rfl
@[simp] theorem State.trapEntry_keyboard (s : State) : (s.trapEntry).keyboard = s.keyboard := rfl
@[simp] theorem State.trapEntry_console (s : State) : (s.trapEntry).console = s.console := rfl
@[simp] theorem State.trapEntry_flushed (s : State) : (s.trapEntry).flushed = s.flushed := rfl
@[simp] theorem State.trapEntry_signalAt (s : State) : (s.trapEntry).signalAt = s.signalAt := rfl
@[simp] theorem State.trapEntry_reg (s : State) (q : Reg) :
    (s.trapEntry).reg q = if q = .r7 then s.pc else s.reg q := RegFile.get_set _ _ _ _

/-! ### linkPc -/

@[simp] theorem State.linkPc_regs (s : State) : (s.linkPc).regs = s.regs.set .r7 s.pc := rfl
@[simp] theorem State.linkPc_pc (s : State) : (s.linkPc).pc = s.pc := rfl
@[simp] theorem State.linkPc_cond (s : State) : (s.linkPc).cond = s.cond := rfl
@[simp] theorem State.linkPc_mem (s : State) : (s.linkPc).mem = s.mem := rfl
@[simp] theorem State.linkPc_run (s : State) : (s.linkPc).run = s.run := rfl
@[simp] theorem State.linkPc_hold (s : State) : (s.linkPc).hold = s.hold := rfl
@[simp] theorem State.linkPc_keyboard (s : State) : (s.linkPc).keyboard = s.keyboard := rfl
@[simp] theorem State.linkPc_console (s : State) : (s.linkPc).console = s.console := rfl
@[simp] theorem State.linkPc_flushed (s : State) : (s.linkPc).flushed = s.flushed := rfl
@[simp] theorem State.linkPc_signalAt (s : State) : (s.linkPc).signalAt = s.signalAt := rfl
@[simp] theorem State.linkPc_reg (s : State) (q : Reg) :
    (s.linkPc).reg q = if q = .r7 then s.pc else s.reg q := RegFile.get_set _ _ _ _

/-! ### advancePc -/

@[simp] theorem State.advancePc_regs (s : State) : (s.advancePc).regs = s.regs := rfl
@[simp] theorem State.advancePc_pc (s : State) : (s.advancePc).pc = s.pc + 1#16 := rfl
@[simp] theorem State.advancePc_cond (s : State) : (s.advancePc).cond = s.cond := rfl
@[simp] theorem State.advancePc_mem (s : State) : (s.advancePc).mem = s.mem := rfl
@[simp] theorem State.advancePc_run (s : State) : (s.advancePc).run = s.run := rfl
@[simp] theorem State.advancePc_hold (s : State) : (s.advancePc).hold = s.hold := rfl
@[simp] theorem State.advancePc_keyboard (s : State) : (s.advancePc).keyboard = s.keyboard := rfl
@[simp] theorem State.advancePc_console (s : State) : (s.advancePc).console = s.console := rfl
@[simp] theorem State.advancePc_flushed (s : State) : (s.advancePc).flushed = s.flushed := rfl
@[simp] theorem State.advancePc_signalAt (s : State) : (s.advancePc).signalAt = s.signalAt := rfl
@[simp] theorem State.advancePc_reg (s : State) (q : Reg) : (s.advancePc).reg q = s.reg q := rfl

/-! ### abort -/

@[simp] theorem State.abort_regs (s : State) : (s.abort).regs = s.regs := rfl
@[simp] theorem State.abort_pc (s : State) : (s.abort).pc = s.pc := rfl
@[simp] theorem State.abort_cond (s : State) : (s.abort).cond = s.cond := rfl
@[simp] theorem State.abort_mem (s : State) : (s.abort).mem = s.mem := rfl
@[simp] theorem State.abort_run (s : State) : (s.abort).run = .aborted := rfl
@[simp] theorem State.abort_hold (s : State) : (s.abort).hold = none := rfl
@[simp] theorem State.abort_keyboard (s : State) : (s.abort).keyboard = s.keyboard := rfl
@[simp] theorem State.abort_console (s : State) : (s.abort).console = s.console := rfl
@[simp] theorem State.abort_flushed (s : State) : (s.abort).flushed = s.flushed := rfl
@[simp] theorem State.abort_signalAt (s : State) : (s.abort).signalAt = s.signalAt := rfl
@[simp] theorem State.abort_reg (s : State) (q : Reg) : (s.abort).reg q = s.reg q := rfl

/-! ### pollFailed -/

@[simp] theorem State.pollFailed_regs (s : State) : (s.pollFailed).regs = s.regs := rfl
@[simp] theorem State.pollFailed_pc (s : State) : (s.pollFailed).pc = s.pc := rfl
@[simp] theorem State.pollFailed_cond (s : State) : (s.pollFailed).cond = s.cond := rfl
@[simp] theorem State.pollFailed_mem (s : State) : (s.pollFailed).mem = s.mem := rfl
@[simp] theorem State.pollFailed_run (s : State) : (s.pollFailed).run = .deviceError .poll (s.pc - 1#16) := rfl
@[simp] theorem State.pollFailed_hold (s : State) : (s.pollFailed).hold = none := rfl
@[simp] theorem State.pollFailed_keyboard (s : State) : (s.pollFailed).keyboard = s.keyboard := rfl
@[simp] theorem State.pollFailed_console (s : State) : (s.pollFailed).console = s.console := rfl
@[simp] theorem State.pollFailed_flushed (s : State) : (s.pollFailed).flushed = s.flushed := rfl
@[simp] theorem State.pollFailed_signalAt (s : State) : (s.pollFailed).signalAt = s.signalAt := rfl
@[simp] theorem State.pollFailed_reg (s : State) (q : Reg) : (s.pollFailed).reg q = s.reg q := rfl

/-! ### fetchFailed -/

@[simp] theorem State.fetchFailed_regs (s : State) : (s.fetchFailed).regs = s.regs := rfl
@[simp] theorem State.fetchFailed_pc (s : State) : (s.fetchFailed).pc = s.pc := rfl
@[simp] theorem State.fetchFailed_cond (s : State) : (s.fetchFailed).cond = s.cond := rfl
@[simp] theorem State.fetchFailed_mem (s : State) : (s.fetchFailed).mem = s.mem := rfl
@[simp] theorem State.fetchFailed_run (s : State) : (s.fetchFailed).run = .deviceError .poll s.pc := rfl
@[simp] theorem State.fetchFailed_hold (s : State) : (s.fetchFailed).hold = none := rfl
@[simp] theorem State.fetchFailed_keyboard (s : State) : (s.fetchFailed).keyboard = s.keyboard := rfl
@[simp] theorem State.fetchFailed_console (s : State) : (s.fetchFailed).console = s.console := rfl
@[simp] theorem State.fetchFailed_flushed (s : State) : (s.fetchFailed).flushed = s.flushed := rfl
@[simp] theorem State.fetchFailed_signalAt (s : State) : (s.fetchFailed).signalAt = s.signalAt := rfl
@[simp] theorem State.fetchFailed_reg (s : State) (q : Reg) : (s.fetchFailed).reg q = s.reg q := rfl

/-! ### setHold -/

@[simp] theorem State.setHold_regs (s : State) (h : Option Hold) : (s.setHold h).regs = s.regs := rfl
@[simp] theorem State.setHold_pc (s : State) (h : Option Hold) : (s.setHold h).pc = s.pc := rfl
@[simp] theorem State.setHold_cond (s : State) (h : Option Hold) : (s.setHold h).cond = s.cond := rfl
@[simp] theorem State.setHold_mem (s : State) (h : Option Hold) : (s.setHold h).mem = s.mem := rfl
@[simp] theorem State.setHold_run (s : State) (h : Option Hold) : (s.setHold h).run = s.run := rfl
@[simp] theorem State.setHold_hold (s : State) (h : Option Hold) : (s.setHold h).hold = h := rfl
@[simp] theorem State.setHold_keyboard (s : State) (h : Option Hold) : (s.setHold h).keyboard = s.keyboard := rfl
@[simp] theorem State.setHold_console (s : State) (h : Option Hold) : (s.setHold h).console = s.console := rfl
@[simp] theorem State.setHold_flushed (s : State) (h : Option Hold) : (s.setHold h).flushed = s.flushed := rfl
@[simp] theorem State.setHold_signalAt (s : State) (h : Option Hold) : (s.setHold h).signalAt = s.signalAt := rfl
@[simp] theorem State.setHold_reg (s : State) (h : Option Hold) (q : Reg) : (s.setHold h).reg q = s.reg q := rfl

/-! ### setKeyboard -/

@[simp] theorem State.setKeyboard_regs (s : State) (k : Keyboard) : (s.setKeyboard k).regs = s.regs := rfl
@[simp] theorem State.setKeyboard_pc (s : State) (k : Keyboard) : (s.setKeyboard k).pc = s.pc := rfl
@[simp] theorem State.setKeyboard_cond (s : State) (k : Keyboard) : (s.setKeyboard k).cond = s.cond := rfl
@[simp] theorem State.setKeyboard_mem (s : State) (k : Keyboard) : (s.setKeyboard k).mem = s.mem := rfl
@[simp] theorem State.setKeyboard_run (s : State) (k : Keyboard) : (s.setKeyboard k).run = s.run := rfl
@[simp] theorem State.setKeyboard_hold (s : State) (k : Keyboard) : (s.setKeyboard k).hold = s.hold := rfl
@[simp] theorem State.setKeyboard_keyboard (s : State) (k : Keyboard) : (s.setKeyboard k).keyboard = k := rfl
@[simp] theorem State.setKeyboard_console (s : State) (k : Keyboard) : (s.setKeyboard k).console = s.console := rfl
@[simp] theorem State.setKeyboard_flushed (s : State) (k : Keyboard) : (s.setKeyboard k).flushed = s.flushed := rfl
@[simp] theorem State.setKeyboard_signalAt (s : State) (k : Keyboard) : (s.setKeyboard k).signalAt = s.signalAt := rfl
@[simp] theorem State.setKeyboard_reg (s : State) (k : Keyboard) (q : Reg) : (s.setKeyboard k).reg q = s.reg q := rfl

/-! ### supplyEvent -/

@[simp] theorem State.supplyEvent_regs (s : State) (e : KeyEvent) : (s.supplyEvent e).regs = s.regs := rfl
@[simp] theorem State.supplyEvent_pc (s : State) (e : KeyEvent) : (s.supplyEvent e).pc = s.pc := rfl
@[simp] theorem State.supplyEvent_cond (s : State) (e : KeyEvent) : (s.supplyEvent e).cond = s.cond := rfl
@[simp] theorem State.supplyEvent_mem (s : State) (e : KeyEvent) : (s.supplyEvent e).mem = s.mem := rfl
@[simp] theorem State.supplyEvent_run (s : State) (e : KeyEvent) : (s.supplyEvent e).run = s.run := rfl
@[simp] theorem State.supplyEvent_hold (s : State) (e : KeyEvent) : (s.supplyEvent e).hold = s.hold := rfl
@[simp] theorem State.supplyEvent_keyboard (s : State) (e : KeyEvent) : (s.supplyEvent e).keyboard = { s.keyboard with events := s.keyboard.events ++ [e] } := rfl
@[simp] theorem State.supplyEvent_console (s : State) (e : KeyEvent) : (s.supplyEvent e).console = s.console := rfl
@[simp] theorem State.supplyEvent_flushed (s : State) (e : KeyEvent) : (s.supplyEvent e).flushed = s.flushed := rfl
@[simp] theorem State.supplyEvent_signalAt (s : State) (e : KeyEvent) : (s.supplyEvent e).signalAt = s.signalAt := rfl
@[simp] theorem State.supplyEvent_reg (s : State) (e : KeyEvent) (q : Reg) : (s.supplyEvent e).reg q = s.reg q := rfl

/-! ### sendSignal -/

@[simp] theorem State.sendSignal_regs (s : State) : (s.sendSignal).regs = s.regs := rfl
@[simp] theorem State.sendSignal_pc (s : State) : (s.sendSignal).pc = s.pc := rfl
@[simp] theorem State.sendSignal_cond (s : State) : (s.sendSignal).cond = s.cond := rfl
@[simp] theorem State.sendSignal_mem (s : State) : (s.sendSignal).mem = s.mem := rfl
@[simp] theorem State.sendSignal_run (s : State) : (s.sendSignal).run = s.run := rfl
@[simp] theorem State.sendSignal_hold (s : State) : (s.sendSignal).hold = s.hold := rfl
@[simp] theorem State.sendSignal_keyboard (s : State) : (s.sendSignal).keyboard = s.keyboard := rfl
@[simp] theorem State.sendSignal_console (s : State) : (s.sendSignal).console = s.console := rfl
@[simp] theorem State.sendSignal_flushed (s : State) : (s.sendSignal).flushed = s.flushed := rfl
@[simp] theorem State.sendSignal_signalAt (s : State) : (s.sendSignal).signalAt = some 0 := rfl
@[simp] theorem State.sendSignal_reg (s : State) (q : Reg) : (s.sendSignal).reg q = s.reg q := rfl

/-! ### raiseReservedOpcode -/

@[simp] theorem State.raiseReservedOpcode_regs (s : State) (op : BitVec 4) : (s.raiseReservedOpcode op).regs = s.regs := rfl
@[simp] theorem State.raiseReservedOpcode_pc (s : State) (op : BitVec 4) : (s.raiseReservedOpcode op).pc = s.pc := rfl
@[simp] theorem State.raiseReservedOpcode_cond (s : State) (op : BitVec 4) : (s.raiseReservedOpcode op).cond = s.cond := rfl
@[simp] theorem State.raiseReservedOpcode_mem (s : State) (op : BitVec 4) : (s.raiseReservedOpcode op).mem = s.mem := rfl
@[simp] theorem State.raiseReservedOpcode_run (s : State) (op : BitVec 4) : (s.raiseReservedOpcode op).run = .fault (.reservedOpcode op (s.pc - 1#16)) := rfl
@[simp] theorem State.raiseReservedOpcode_hold (s : State) (op : BitVec 4) : (s.raiseReservedOpcode op).hold = none := rfl
@[simp] theorem State.raiseReservedOpcode_keyboard (s : State) (op : BitVec 4) : (s.raiseReservedOpcode op).keyboard = s.keyboard := rfl
@[simp] theorem State.raiseReservedOpcode_console (s : State) (op : BitVec 4) : (s.raiseReservedOpcode op).console = s.console := rfl
@[simp] theorem State.raiseReservedOpcode_flushed (s : State) (op : BitVec 4) : (s.raiseReservedOpcode op).flushed = s.flushed := rfl
@[simp] theorem State.raiseReservedOpcode_signalAt (s : State) (op : BitVec 4) : (s.raiseReservedOpcode op).signalAt = s.signalAt := rfl
@[simp] theorem State.raiseReservedOpcode_reg (s : State) (op : BitVec 4) (q : Reg) : (s.raiseReservedOpcode op).reg q = s.reg q := rfl

/-! ### raiseUnknownVector -/

@[simp] theorem State.raiseUnknownVector_regs (s : State) (v : Byte) : (s.raiseUnknownVector v).regs = s.regs := rfl
@[simp] theorem State.raiseUnknownVector_pc (s : State) (v : Byte) : (s.raiseUnknownVector v).pc = s.pc := rfl
@[simp] theorem State.raiseUnknownVector_cond (s : State) (v : Byte) : (s.raiseUnknownVector v).cond = s.cond := rfl
@[simp] theorem State.raiseUnknownVector_mem (s : State) (v : Byte) : (s.raiseUnknownVector v).mem = s.mem := rfl
@[simp] theorem State.raiseUnknownVector_run (s : State) (v : Byte) : (s.raiseUnknownVector v).run = .fault (.unknownTrapVector v (s.pc - 1#16)) := rfl
@[simp] theorem State.raiseUnknownVector_hold (s : State) (v : Byte) : (s.raiseUnknownVector v).hold = none := rfl
@[simp] theorem State.raiseUnknownVector_keyboard (s : State) (v : Byte) : (s.raiseUnknownVector v).keyboard = s.keyboard := rfl
@[simp] theorem State.raiseUnknownVector_console (s : State) (v : Byte) : (s.raiseUnknownVector v).console = s.console := rfl
@[simp] theorem State.raiseUnknownVector_flushed (s : State) (v : Byte) : (s.raiseUnknownVector v).flushed = s.flushed := rfl
@[simp] theorem State.raiseUnknownVector_signalAt (s : State) (v : Byte) : (s.raiseUnknownVector v).signalAt = s.signalAt := rfl
@[simp] theorem State.raiseUnknownVector_reg (s : State) (v : Byte) (q : Reg) : (s.raiseUnknownVector v).reg q = s.reg q := rfl

/-! ### raiseDeviceError -/

@[simp] theorem State.raiseDeviceError_regs (s : State) (site : DeviceSite) (addr : Word) : (s.raiseDeviceError site addr).regs = s.regs := rfl
@[simp] theorem State.raiseDeviceError_pc (s : State) (site : DeviceSite) (addr : Word) : (s.raiseDeviceError site addr).pc = s.pc := rfl
@[simp] theorem State.raiseDeviceError_cond (s : State) (site : DeviceSite) (addr : Word) : (s.raiseDeviceError site addr).cond = s.cond := rfl
@[simp] theorem State.raiseDeviceError_mem (s : State) (site : DeviceSite) (addr : Word) : (s.raiseDeviceError site addr).mem = s.mem := rfl
@[simp] theorem State.raiseDeviceError_run (s : State) (site : DeviceSite) (addr : Word) : (s.raiseDeviceError site addr).run = .deviceError site addr := rfl
@[simp] theorem State.raiseDeviceError_hold (s : State) (site : DeviceSite) (addr : Word) : (s.raiseDeviceError site addr).hold = none := rfl
@[simp] theorem State.raiseDeviceError_keyboard (s : State) (site : DeviceSite) (addr : Word) : (s.raiseDeviceError site addr).keyboard = s.keyboard := rfl
@[simp] theorem State.raiseDeviceError_console (s : State) (site : DeviceSite) (addr : Word) : (s.raiseDeviceError site addr).console = s.console := rfl
@[simp] theorem State.raiseDeviceError_flushed (s : State) (site : DeviceSite) (addr : Word) : (s.raiseDeviceError site addr).flushed = s.flushed := rfl
@[simp] theorem State.raiseDeviceError_signalAt (s : State) (site : DeviceSite) (addr : Word) : (s.raiseDeviceError site addr).signalAt = s.signalAt := rfl
@[simp] theorem State.raiseDeviceError_reg (s : State) (site : DeviceSite) (addr : Word) (q : Reg) : (s.raiseDeviceError site addr).reg q = s.reg q := rfl

/-! ### The keyboard -/

@[simp] theorem Keyboard.afterDraw_events (k : Keyboard) : k.afterDraw.events = k.events := rfl
@[simp] theorem Keyboard.afterDraw_further (k : Keyboard) : k.afterDraw.further = k.further := rfl
@[simp] theorem Keyboard.afterDraw_answers (k : Keyboard) : k.afterDraw.answers = k.answers.tail := rfl
@[simp] theorem Keyboard.afterDraw_polls (k : Keyboard) : k.afterDraw.polls = k.polls + 1 := rfl

/-- A draw takes no event. -/
@[simp] theorem Keyboard.afterDraw_next (k : Keyboard) :
    k.afterDraw.next = k.next.map fun p => (p.1, p.2.afterDraw) := by
  rcases k with ⟨_ | _, _ | _ | _, _, _⟩ <;> rfl

/-- Taking an event takes no draw. -/
theorem Keyboard.next_draws {k rest : Keyboard} {e : KeyEvent} (h : k.next = some (e, rest)) :
    rest.answers = k.answers ∧ rest.polls = k.polls := by
  rcases k with ⟨_ | _, _ | _ | _, _, _⟩ <;> cases h <;> exact ⟨rfl, rfl⟩

end Sys2Proof.Machine
end

