-- ==== Sys2Proof/Laws/Ops.lean ====
section
/-! SUPPORT. One lemma for each shared operation that says everything it can do. -/

namespace Sys2Proof.Machine

/-- The flag update in the words of R106. -/
theorem condOf_eq_flagOf (v : Word) : condOf v = flagOf v := by
  unfold condOf flagOf
  simp only [BitVec.msb_eq_getLsbD_last]

/-- A flag is one of the three values (R29). -/
theorem condOf_cases (v : Word) : condOf v = 0b100#3 ∨ condOf v = 0b010#3 ∨ condOf v = 0b001#3 := by
  unfold condOf
  split
  · exact .inr (.inl rfl)
  · split
    · exact .inl rfl
    · exact .inr (.inr rfl)

/-- Everything a poll can do, told apart by the keyboard alone (R53, R56). -/
theorem State.pollKeyboard_cases (s : State) :
    (s.keyAvailable = false ∧
      s.pollKeyboard = .value 0x0000#16 (s.afterQuery.memWrite Config.kbsrAddr 0x0000#16)) ∨
    (∃ k rest, s.keyAvailable = true ∧ s.keyboard.next = some (.key k, rest) ∧
      s.pollKeyboard = .value 0x8000#16
        (((s.setKeyboard rest.afterDraw).memWrite Config.kbdrAddr (zext k)).memWrite
          Config.kbsrAddr 0x8000#16)) ∨
    ∃ rest, s.keyAvailable = true ∧ s.keyboard.next = some (.failure, rest) ∧
      s.pollKeyboard = .failed (s.setKeyboard rest.afterDraw) := by
  unfold State.pollKeyboard State.readKey State.keyAvailable
  rw [State.afterQuery_keyboard, Keyboard.afterDraw_next]
  rcases s.keyboard.next with _ | ⟨_ | _, rest⟩
  · exact .inl ⟨rfl, rfl⟩
  · cases hd : s.keyboard.draw
    · exact .inl ⟨rfl, rfl⟩
    · exact .inr (.inl ⟨_, rest, rfl, rfl, rfl⟩)
  · cases hd : s.keyboard.draw
    · exact .inl ⟨rfl, rfl⟩
    · exact .inr (.inr ⟨rest, rfl, rfl, rfl⟩)

/-- Everything a MemRead that answers can do: nothing at an address other than KBSR_ADDR (R52), a poll
there (R53). -/
theorem State.memRead_value {s u : State} {a v : Word} (h : s.memRead a = .value v u) :
    (a ≠ Config.kbsrAddr ∧ v = s.mem.read a ∧ u = s) ∨
    (a = Config.kbsrAddr ∧ s.keyAvailable = false ∧ v = 0x0000#16 ∧
      u = s.afterQuery.memWrite Config.kbsrAddr 0x0000#16) ∨
    ∃ k rest, a = Config.kbsrAddr ∧ s.keyAvailable = true ∧ s.keyboard.next = some (.key k, rest) ∧
      v = 0x8000#16 ∧
      u = ((s.setKeyboard rest.afterDraw).memWrite Config.kbdrAddr (zext k)).memWrite
        Config.kbsrAddr 0x8000#16 := by
  unfold State.memRead at h
  split at h
  · next ha =>
    rcases s.pollKeyboard_cases with ⟨hk, hp⟩ | ⟨k, rest, hk, hn, hp⟩ | ⟨rest, hk, hn, hp⟩ <;>
      rw [hp] at h <;> cases h
    · exact .inr (.inl ⟨ha, hk, rfl, rfl⟩)
    · exact .inr (.inr ⟨k, rest, ha, hk, hn, rfl, rfl⟩)
  · next ha =>
    cases h
    exact .inl ⟨ha, rfl, rfl⟩

/-- Everything a MemRead that fails can do (R56). -/
theorem State.memRead_failed {s u : State} {a : Word} (h : s.memRead a = .failed u) :
    ∃ rest, a = Config.kbsrAddr ∧ s.keyAvailable = true ∧ s.keyboard.next = some (.failure, rest) ∧
      u = s.setKeyboard rest.afterDraw := by
  unfold State.memRead at h
  split at h
  · next ha =>
    rcases s.pollKeyboard_cases with ⟨hk, hp⟩ | ⟨k, rest, hk, hn, hp⟩ | ⟨rest, hk, hn, hp⟩ <;>
      rw [hp] at h <;> cases h
    exact ⟨rest, ha, hk, hn, rfl⟩
  · simp at h

/-- Everything a ReadKey can do (R165). -/
theorem State.readKey_cases (s : State) :
    (s.keyboard.next = none ∧ s.readKey = .waits) ∨
    (∃ k rest, s.keyboard.next = some (.key k, rest) ∧ s.readKey = .key k (s.setKeyboard rest)) ∨
    (∃ rest, s.keyboard.next = some (.failure, rest) ∧ s.readKey = .failed (s.setKeyboard rest)) := by
  unfold State.readKey
  rcases s.keyboard.next with _ | ⟨_ | _, rest⟩
  · exact .inl ⟨rfl, rfl⟩
  · exact .inr (.inl ⟨_, rest, rfl, rfl⟩)
  · exact .inr (.inr ⟨rest, rfl, rfl⟩)

/-- Everything `loadWord` can do (R119 to R121). -/
theorem loadWord_cases (dr : Reg) (ea : Word) (s : State) :
    (∃ v u, s.memRead ea = .value v u ∧ loadWord dr ea s = .next (u.writeDest dr v)) ∨
    (∃ u, s.memRead ea = .failed u ∧ loadWord dr ea s = .next u.pollFailed) := by
  unfold loadWord
  cases s.memRead ea with
  | value v u => exact .inl ⟨v, u, rfl, rfl⟩
  | failed u => exact .inr ⟨u, rfl, rfl⟩

/-- Taking an event leaves the endless part of an input endless, and the finite part one event shorter. -/
theorem Keyboard.next_of_ends {k rest : Keyboard} {e : KeyEvent} (hk : k.further = .ends)
    (h : k.next = some (e, rest)) : k.events = e :: rest.events ∧ rest.further = .ends := by
  rcases k with ⟨_ | _, _, _, _⟩
  · cases hk
    cases h
  · cases h
    exact ⟨rfl, hk⟩

/-- What is taken from an input depends on its events alone, and not on the draws. -/
theorem Took.congr {k k1 k' k1' : Keyboard} {es : List KeyEvent} (h : Took k es k')
    (he : k1.events = k.events) (hf : k1.further = k.further) (he' : k1'.events = k'.events)
    (hf' : k1'.further = k'.further) : Took k1 es k1' := by
  induction es generalizing k k1 with
  | nil => exact ⟨he'.trans (h.1.trans he.symm), hf'.trans (h.2.trans hf.symm)⟩
  | cons e es ih =>
    obtain ⟨rest, hn, ht⟩ := h
    rcases k with ⟨_ | _, _ | _ | _, _, _⟩ <;> rcases k1 with ⟨_, _, _, _⟩ <;>
      simp only at he hf <;> subst he hf <;> simp only [Keyboard.next, reduceCtorEq, Option.some.injEq,
        Prod.mk.injEq] at hn <;> obtain ⟨rfl, rfl⟩ := hn
    all_goals exact ⟨_, rfl, ih ht rfl rfl⟩

/-- Events taken one after the other. -/
theorem Took.append {k k1 k2 : Keyboard} {es es' : List KeyEvent} (h : Took k es k1)
    (h' : Took k1 es' k2) : Took k (es ++ es') k2 := by
  induction es generalizing k with
  | nil => exact h'.congr h.1.symm h.2.symm rfl rfl
  | cons e es ih =>
    obtain ⟨rest, hn, ht⟩ := h
    exact ⟨rest, hn, ih ht⟩

/-- Where the input ends with the listed events, a MemRead that answers takes no event, and then answers x0000 if
it is a poll, or it takes the first one. -/
theorem State.memRead_events {s u : State} {a v : Word} (hs : s.keyboard.further = .ends)
    (h : s.memRead a = .value v u) :
    u.keyboard.further = .ends ∧
    ((u.keyboard.events = s.keyboard.events ∧ (a = Config.kbsrAddr → v = 0x0000#16)) ∨
      ∃ k, a = Config.kbsrAddr ∧ s.keyboard.events = .key k :: u.keyboard.events) := by
  rcases State.memRead_value h with ⟨ha, -, rfl⟩ | ⟨-, -, hv, rfl⟩ | ⟨k, rest, ha, -, he, -, rfl⟩
  · exact ⟨hs, .inl ⟨rfl, fun h => absurd h ha⟩⟩
  · exact ⟨hs, .inl ⟨rfl, fun _ => hv⟩⟩
  · obtain ⟨h1, h2⟩ := Keyboard.next_of_ends hs he
    exact ⟨h2, .inr ⟨k, ha, h1⟩⟩

/-- The distance from a pointer to KBSR_ADDR falls by one with each address that is not KBSR_ADDR. -/
theorem distance_to_kbsr (a : Word) (h : a ≠ Config.kbsrAddr) :
    (Config.kbsrAddr - (a + 1#16)).toNat + 1 = (Config.kbsrAddr - a).toNat := by
  have h' : a.toNat ≠ Config.kbsrAddr.toNat := fun e => h (BitVec.eq_of_toNat_eq e)
  simp only [Config.kbsrAddr, BitVec.toNat_sub, BitVec.toNat_add, BitVec.toNat_ofNat] at h' ⊢
  have := a.isLt
  omega

/-- Everything the loop of PUTS and PUTSP can do (R136, R138): it ends as its pseudocode ends, or it has read as
many words as a step may and the engine is still inside the service. -/
theorem putsLoop_cases (bytesOf : Word → List Byte) (inside : Word → Hold) (fuel : Nat) (a : Word)
    (s : State) : ∃ t, putsLoop bytesOf inside fuel a s = .next t ∧
      (StringRun bytesOf a s t ∨ StringGoesOn bytesOf inside fuel a s t) := by
  induction fuel generalizing a s with
  | zero => exact ⟨_, rfl, .inr .pause⟩
  | succ n ih =>
    unfold putsLoop
    cases hr : s.memRead a with
    | failed u =>
      exact ⟨u.pollFailed, rfl, .inl (.failed hr
        ⟨rfl, rfl, fun _ => rfl, rfl, rfl, fun _ => rfl, rfl, rfl, rfl, rfl⟩)⟩
    | value w u =>
      by_cases hw : w = 0#16
      · subst hw
        exact ⟨u.setHold none, by simp, .inl (.stop hr)⟩
      · simp only [if_neg hw]
        obtain ⟨t, ht, h | h⟩ := ih (a + 1#16) (u.consoleOut (bytesOf w))
        · exact ⟨t, ht, .inl (.more hr hw h)⟩
        · exact ⟨t, ht, .inr (.more hr hw h)⟩

/-- Where the input ends with the listed events, a string reads fewer words than the rest of its lap and one lap
for each listed event. -/
theorem StringGoesOn.short {bytesOf : Word → List Byte} {inside : Word → Hold} {n : Nat} {a : Word}
    {s t : State} (h : StringGoesOn bytesOf inside n a s t) (hs : s.keyboard.further = .ends) :
    n ≤ (Config.kbsrAddr - a).toNat + 65536 * s.keyboard.events.length := by
  induction h with
  | pause => omega
  | @more n a w s u t hr hw _ ih =>
    obtain ⟨hu, he⟩ := State.memRead_events hs hr
    have := ih hu
    change n ≤ _ + 65536 * u.keyboard.events.length at this
    rcases he with ⟨he, hk⟩ | ⟨k, ha, he⟩
    · have := distance_to_kbsr _ (fun e => hw (hk e))
      rw [← he]
      omega
    · have := (Config.kbsrAddr - (a + 1#16)).isLt
      rw [he, List.length_cons]
      omega

/-- A string whose input ends with the listed events ends within one step. -/
theorem StringGoesOn.not_of_ends {bytesOf : Word → List Byte} {inside : Word → Hold} {a : Word}
    {s t : State} (hs : s.keyboard.further = .ends) :
    ¬ StringGoesOn bytesOf inside s.stringFuel a s t := by
  intro h
  have h1 := h.short hs
  have h2 := (Config.kbsrAddr - a).isLt
  unfold State.stringFuel at h1
  omega

/-- A step where the run goes on and no signal is due is one turn of the engine (R102). -/
theorem step_of_running {s : State} (h : s.run = .running) (hs : s.signalAt ≠ some 0) :
    step s = turn s.tick := by
  simp only [step, h, endedFault, runTurn, if_neg hs]

/-- A step that fetches (R103). -/
theorem step_of_fetches {s : State} (h : s.fetches) : step s = fetchExec s.tick := by
  rw [step_of_running h.1 h.2.2, turn, show s.tick.hold = none from h.2.1]

/-- Everything a step that answers a next state can be: the signal taken, or one turn of the engine (R154). -/
theorem step_next_cases {s t : State} (h : step s = .next t) :
    s.run = .running ∧ (s.signalAt = some 0 ∧ t = s.abort ∨
      s.signalAt ≠ some 0 ∧ turn s.tick = .next t) := by
  unfold step at h
  cases hr : s.run <;> simp only [hr, endedFault, reduceCtorEq] at h
  refine ⟨rfl, ?_⟩
  unfold runTurn at h
  split at h
  · exact .inl ⟨‹_›, by simpa using h.symm⟩
  · exact .inr ⟨‹_›, h⟩

end Sys2Proof.Machine
end

