-- ==== Sys2Proof/Laws/PerInstr.lean ====
section
/-! SUPPORT. The family EncodesItsRow: an instruction's word lies in its row of spec/opcode_table.json (the bits under the row's mask are the row's match) and has zeros in the bits the row ignores (R94). -/

namespace Sys2Proof.Laws.EncodesItsRow

/-- The word of `i` matches its row, with ignored bits zero. -/
def Statement (i : Instr) : Prop :=
  encode i &&& rowMask i = rowMatch i ∧ encode i &&& ignoredBits i = 0#16

theorem br (cond : BitVec 3) (off : BitVec 9) : Statement (.br cond off) :=
  ⟨and_mask_append (n := 7) _ 0x78#7 0x00#7 off 0#9 0#9 (by revert cond; decide) BitVec.and_zero, BitVec.and_zero⟩

theorem addReg (dr sr1 sr2 : Reg) : Statement (.addReg dr sr1 sr2) := by
  cases dr <;> cases sr1 <;> cases sr2 <;> exact ⟨rfl, rfl⟩

theorem addImm (dr sr1 : Reg) (imm : BitVec 5) : Statement (.addImm dr sr1 imm) :=
  ⟨and_mask_append (n := 10) _ 0x3C0#10 0x040#10 (lowOpI imm) 0x20#6 0x20#6 (by cases dr <;> cases sr1 <;> rfl)
    (and_mask_append (n := 1) 0b1#1 0b1#1 0b1#1 imm 0#5 0#5 rfl BitVec.and_zero), BitVec.and_zero⟩

theorem ld (dr : Reg) (off : BitVec 9) : Statement (.ld dr off) :=
  ⟨and_mask_append (n := 7) _ 0x78#7 0x10#7 off 0#9 0#9 (by cases dr <;> rfl) BitVec.and_zero, BitVec.and_zero⟩

theorem st (sr : Reg) (off : BitVec 9) : Statement (.st sr off) :=
  ⟨and_mask_append (n := 7) _ 0x78#7 0x18#7 off 0#9 0#9 (by cases sr <;> rfl) BitVec.and_zero, BitVec.and_zero⟩

theorem jsr (off : BitVec 11) : Statement (.jsr off) :=
  ⟨and_mask_append (n := 5) _ 0x1F#5 0x09#5 off 0#11 0#11 (by rfl) BitVec.and_zero, BitVec.and_zero⟩

theorem jsrr (base : Reg) : Statement (.jsrr base) := by
  cases base <;> exact ⟨rfl, rfl⟩

theorem andReg (dr sr1 sr2 : Reg) : Statement (.andReg dr sr1 sr2) := by
  cases dr <;> cases sr1 <;> cases sr2 <;> exact ⟨rfl, rfl⟩

theorem andImm (dr sr1 : Reg) (imm : BitVec 5) : Statement (.andImm dr sr1 imm) :=
  ⟨and_mask_append (n := 10) _ 0x3C0#10 0x140#10 (lowOpI imm) 0x20#6 0x20#6 (by cases dr <;> cases sr1 <;> rfl)
    (and_mask_append (n := 1) 0b1#1 0b1#1 0b1#1 imm 0#5 0#5 rfl BitVec.and_zero), BitVec.and_zero⟩

theorem ldr (dr base : Reg) (off : BitVec 6) : Statement (.ldr dr base off) :=
  ⟨and_mask_append (n := 10) _ 0x3C0#10 0x180#10 off 0#6 0#6 (by cases dr <;> cases base <;> rfl) BitVec.and_zero, BitVec.and_zero⟩

theorem str (sr base : Reg) (off : BitVec 6) : Statement (.str sr base off) :=
  ⟨and_mask_append (n := 10) _ 0x3C0#10 0x1C0#10 off 0#6 0#6 (by cases sr <;> cases base <;> rfl) BitVec.and_zero, BitVec.and_zero⟩

theorem rti : Statement .rti := ⟨rfl, rfl⟩

theorem not (dr sr : Reg) : Statement (.not dr sr) := by
  cases dr <;> cases sr <;> exact ⟨rfl, rfl⟩

theorem ldi (dr : Reg) (off : BitVec 9) : Statement (.ldi dr off) :=
  ⟨and_mask_append (n := 7) _ 0x78#7 0x50#7 off 0#9 0#9 (by cases dr <;> rfl) BitVec.and_zero, BitVec.and_zero⟩

theorem sti (sr : Reg) (off : BitVec 9) : Statement (.sti sr off) :=
  ⟨and_mask_append (n := 7) _ 0x78#7 0x58#7 off 0#9 0#9 (by cases sr <;> rfl) BitVec.and_zero, BitVec.and_zero⟩

theorem jmp (base : Reg) : Statement (.jmp base) := by
  cases base <;> exact ⟨rfl, rfl⟩

theorem res : Statement .res := ⟨rfl, rfl⟩

theorem lea (dr : Reg) (off : BitVec 9) : Statement (.lea dr off) :=
  ⟨and_mask_append (n := 7) _ 0x78#7 0x70#7 off 0#9 0#9 (by cases dr <;> rfl) BitVec.and_zero, BitVec.and_zero⟩

theorem trapGetc : Statement .trapGetc := ⟨rfl, rfl⟩

theorem trapOut : Statement .trapOut := ⟨rfl, rfl⟩

theorem trapPuts : Statement .trapPuts := ⟨rfl, rfl⟩

theorem trapIn : Statement .trapIn := ⟨rfl, rfl⟩

theorem trapPutsp : Statement .trapPutsp := ⟨rfl, rfl⟩

theorem trapHalt : Statement .trapHalt := ⟨rfl, rfl⟩

theorem trap (v : Byte) : Statement (.trap v) :=
  ⟨and_mask_append (n := 8) _ 0xF0#8 0xF0#8 v 0#8 0#8 (by rfl) BitVec.and_zero, and_mask_append (n := 8) _ 0x0F#8 0x00#8 v 0#8 0#8 (by rfl) BitVec.and_zero⟩

end Sys2Proof.Laws.EncodesItsRow
end

