-- ==== Sys2Proof/Tests/Slice0.lean ====
section
/-! SUPPORT. Tests: terms WellFormed refuses, words written out from the encodings of spec/30_encoding.md, vectors of spec/95_test_vectors.md (named by their ids), and for each statement with hypotheses a state and operands that meet them. -/

namespace Sys2Proof.Tests

open Sys2Proof.Machine

/-! ## Helpers -/

/-- The machine at reset with a pc, the listed words and registers, and a flag. -/
def machine (pc : Word) (cells : Memory) (regs : RegFile := RegFile.zero) (cond : BitVec 3 := 0b010#3) :
    State :=
  { State.reset with pc := pc, mem := cells, regs := regs, cond := cond }

/-- Pending input, and the answers of the next draws. -/
def withInput (s : State) (events : List KeyEvent) (answers : List Bool) : State :=
  s.setKeyboard { events := events, further := .ends, answers := answers, polls := 0 }

/-- An endless input of one key, and the answers of the next draws. -/
def withEndless (s : State) (b : Byte) (answers : List Bool) : State :=
  s.setKeyboard { events := [], further := .again b, answers := answers, polls := 0 }

/-- The input of `s` after its first event. -/
def rest (s : State) : Keyboard := { s.keyboard with events := s.keyboard.events.tail }

/-- What one step leaves, seen through `f`. -/
def after {α : Type} (s : State) (f : State → α) : Option α :=
  match step s with
  | .next t => some (f t)
  | .fault _ => none
  | .refused _ => none

/-- A poll at `a` finds no key. -/
abbrev Idle (s : State) (a : Word) : Prop := a = Config.kbsrAddr ∧ s.keyAvailable = false

/-- A poll at `a` finds a key. -/
abbrev Key (s : State) (a : Word) (k : Byte) : Prop :=
  a = Config.kbsrAddr ∧ s.keyAvailable = true ∧ s.keyboard.next = some (.key k, rest s)

/-- A poll at `a` fails. -/
abbrev Fails (s : State) (a : Word) : Prop :=
  a = Config.kbsrAddr ∧ s.keyAvailable = true ∧ s.keyboard.next = some (.failure, rest s)

/-- A key pending, and a draw that says so. -/
def ready (s : State) : State := withInput s [.key 0x61#8] [true]

/-- A key pending whose availability the next draw denies. -/
def unseen (s : State) : State := withInput s [.key 0x61#8] [false]

/-- A failure pending, and a draw that says a key is there. -/
def broken (s : State) : State := withInput s [.failure] [true]

/-! ## WellFormed refuses -/

theorem test_wf_refuses_service_vectors :
    WellFormed (.trap 0x20#8) = false ∧ WellFormed (.trap 0x21#8) = false ∧
    WellFormed (.trap 0x22#8) = false ∧ WellFormed (.trap 0x23#8) = false ∧
    WellFormed (.trap 0x24#8) = false ∧ WellFormed (.trap 0x25#8) = false := by decide

theorem test_wf_takes_the_other_vectors :
    WellFormed (.trap 0x1F#8) = true ∧ WellFormed (.trap 0x26#8) = true ∧
    WellFormed (.trap 0x00#8) = true ∧ WellFormed (.trap 0xFF#8) = true := by decide

/-! ## Decoding: words written out bit by bit from spec/30_encoding.md -/

theorem test_decode_br : decode 0b0000_101_100000001#16 = .br 0b101#3 0x101#9 := by decide
theorem test_decode_addReg : decode 0b0001_010_110_0_00_101#16 = .addReg .r2 .r6 .r5 := by decide
theorem test_decode_addImm : decode 0b0001_010_110_1_10001#16 = .addImm .r2 .r6 0b10001#5 := by decide
theorem test_decode_ld : decode 0b0010_011_000000110#16 = .ld .r3 6#9 := by decide
theorem test_decode_st : decode 0b0011_111_111111110#16 = .st .r7 0x1FE#9 := by decide
theorem test_decode_jsr : decode 0b0100_1_10000000001#16 = .jsr 0x401#11 := by decide
theorem test_decode_jsrr : decode 0b0100_0_00_110_000000#16 = .jsrr .r6 := by decide
theorem test_decode_andReg : decode 0b0101_001_011_0_00_111#16 = .andReg .r1 .r3 .r7 := by decide
theorem test_decode_andImm : decode 0b0101_001_011_1_00111#16 = .andImm .r1 .r3 0b00111#5 := by decide
theorem test_decode_ldr : decode 0b0110_100_001_100001#16 = .ldr .r4 .r1 0b100001#6 := by decide
theorem test_decode_str : decode 0b0111_100_001_011110#16 = .str .r4 .r1 0b011110#6 := by decide
theorem test_decode_rti : decode 0b1000_000000000000#16 = .rti := by decide
theorem test_decode_not : decode 0b1001_101_010_111111#16 = .not .r5 .r2 := by decide
theorem test_decode_ldi : decode 0b1010_110_000000001#16 = .ldi .r6 1#9 := by decide
theorem test_decode_sti : decode 0b1011_110_100000000#16 = .sti .r6 0x100#9 := by decide
theorem test_decode_jmp : decode 0b1100_000_011_000000#16 = .jmp .r3 := by decide
theorem test_decode_res : decode 0b1101_111111111111#16 = .res := by decide
theorem test_decode_lea : decode 0b1110_101_011111111#16 = .lea .r5 0x0FF#9 := by decide
theorem test_decode_trap_services :
    decode 0b1111_0000_00100000#16 = .trapGetc ∧ decode 0b1111_0000_00100001#16 = .trapOut ∧
    decode 0b1111_0000_00100010#16 = .trapPuts ∧ decode 0b1111_0000_00100011#16 = .trapIn ∧
    decode 0b1111_0000_00100100#16 = .trapPutsp ∧ decode 0b1111_0000_00100101#16 = .trapHalt := by
  decide
theorem test_decode_trap_other :
    decode 0b1111_0000_00011111#16 = .trap 0x1F#8 ∧ decode 0b1111_0000_00100110#16 = .trap 0x26#8 := by
  decide

/-- R94: bits no field uses do not matter (L2-O8, L2-O15, L2-T7). -/
theorem test_decode_ignored_bits :
    decode 0b0001_000_000_0_11_000#16 = .addReg .r0 .r0 .r0 ∧
    decode 0b1001_001_001_000000#16 = .not .r1 .r1 ∧ decode 0b1111_1111_00100101#16 = .trapHalt ∧
    decode 0b0100_0_11_010_111111#16 = .jsrr .r2 ∧ decode 0b1100_111_111_111111#16 = .jmp .r7 := by
  decide

theorem test_encode_words :
    encode (.addImm .r1 .r0 0b11101#5) = 0x123D#16 ∧ encode (.br 0b111#3 0x1FF#9) = 0x0FFF#16 ∧
    encode (.jsr 0x400#11) = 0x4C00#16 ∧ encode (.jmp .r7) = 0xC1C0#16 ∧
    encode (.str .r1 .r6 1#6) = 0x7381#16 ∧ encode .trapHalt = 0xF025#16 := by decide

theorem test_table_word :
    decodeTableWord 16 0xF026 = some (.trap 0x26#8) ∧ decodeTableWord 16 0x1020 = some (.addImm .r0 .r0 0#5) ∧
    decodeTableWord 32 0x1020 = none := by decide

theorem test_with_fetch_word :
    after (State.reset.withFetchWord 16 0xE000) (fun t => (t.reg .r0, t.pc)) =
      some (0x3001#16, 0x3001#16) ∧
    after (State.reset.withFetchWord 16 0xF022) (fun t => (t.reg .r7, t.console)) =
      some (0x3001#16, []) := by decide

/-! ## Operate (spec/95_test_vectors.md section 2.1) -/

/-- L2-O1. -/
theorem test_add_signed_overflow :
    after (machine 0x3000#16 [(0x3000, 0x1401#16)] { RegFile.zero with r0 := 0x7FFF#16, r1 := 1#16 })
      (fun t => (t.reg .r2, t.cond, t.pc)) = some (0x8000#16, 0b100#3, 0x3001#16) := by decide

/-- L2-O4. -/
theorem test_add_source_is_destination :
    after (machine 0x3000#16 [(0x3000, 0x1241#16)] { RegFile.zero with r1 := 0x1234#16 })
      (fun t => (t.reg .r1, t.cond)) = some (0x2468#16, 0b001#3) := by decide

/-- L1-6. -/
theorem test_add_immediate_negative :
    after (machine 0x3000#16 [(0x3000, 0x123D#16)] { RegFile.zero with r0 := 5#16 })
      (fun t => (t.reg .r1, t.cond, t.pc)) = some (2#16, 0b001#3, 0x3001#16) := by decide

/-- L1-7. -/
theorem test_and_register :
    after (machine 0x3000#16 [(0x3000, 0x5401#16)]
      { RegFile.zero with r0 := 0xFF0F#16, r1 := 0x0FF0#16 })
      (fun t => (t.reg .r2, t.cond)) = some (0x0F00#16, 0b001#3) := by decide

/-- L2-O11. -/
theorem test_and_immediate_negative :
    after (machine 0x3000#16 [(0x3000, 0x5030#16)] { RegFile.zero with r0 := 0xABCD#16 })
      (fun t => (t.reg .r0, t.cond)) = some (0xABC0#16, 0b100#3) := by decide

/-- L2-O16. -/
theorem test_not :
    after (machine 0x3000#16 [(0x3000, 0x9680#16)] { RegFile.zero with r2 := 0x00FF#16 })
      (fun t => (t.reg .r3, t.reg .r2, t.cond)) = some (0xFF00#16, 0x00FF#16, 0b100#3) := by decide

/-! ## Loads (section 2.2) -/

/-- L2-L1. -/
theorem test_ld_wraps :
    after (machine 0x0000#16 [(0x0000, 0x2100#16), (0xFF01, 0x1111#16)])
      (fun t => (t.reg .r0, t.cond)) = some (0x1111#16, 0b001#3) := by decide

/-- L2-L5. -/
theorem test_ldi_polls :
    after (ready (machine 0x3000#16 [(0x3000, 0xA000#16), (0x3001, 0xFE00#16)]))
      (fun t => (t.reg .r0, t.cond, t.mem.read 0xFE00#16, t.mem.read 0xFE02#16, t.keyboard.events)) =
      some (0x8000#16, 0b100#3, 0x8000#16, 0x0061#16, []) := by decide

/-- L2-L6. -/
theorem test_ldi_pointer_is_itself :
    after (machine 0x3000#16 [(0x3000, 0xA1FF#16)]) (fun t => (t.reg .r0, t.cond)) =
      some (0x0000#16, 0b010#3) := by decide

/-- L2-L8. -/
theorem test_ldr_old_base :
    after (machine 0x3000#16 [(0x3000, 0x6240#16), (0x4000, 0xBEEF#16)]
      { RegFile.zero with r1 := 0x4000#16 }) (fun t => (t.reg .r1, t.cond)) =
      some (0xBEEF#16, 0b100#3) := by decide

/-- L2-L9. -/
theorem test_ldr_negative_offset :
    after (machine 0x3000#16 [(0x3000, 0x62A0#16), (0x3FE0, 1#16)]
      { RegFile.zero with r2 := 0x4000#16 }) (fun t => (t.reg .r1, t.cond)) =
      some (1#16, 0b001#3) := by decide

/-- L2-L14. -/
theorem test_lea_does_not_poll :
    after (ready (machine 0xFDFF#16 [(0xFDFF, 0xE000#16)]))
      (fun t => (t.reg .r0, t.cond, t.keyboard.events, t.mem.read 0xFE00#16)) =
      some (0xFE00#16, 0b100#3, [.key 0x61#8], 0x0000#16) := by decide

/-- L2-L11. -/
theorem test_lea_pc_wraps :
    after (machine 0xFFFF#16 [(0xFFFF, 0xE000#16)]) (fun t => (t.reg .r0, t.cond, t.pc)) =
      some (0x0000#16, 0b010#3, 0x0000#16) := by decide

/-! ## Stores (section 2.3) -/

/-- L2-S1. -/
theorem test_st :
    after (machine 0x3000#16 [(0x3000, 0x3200#16)] { RegFile.zero with r1 := 0x1234#16 } 0b100#3)
      (fun t => (t.mem.read 0x3001#16, t.cond)) = some (0x1234#16, 0b100#3) := by decide

/-- L2-S2. -/
theorem test_sti :
    after (machine 0x3000#16 [(0x3000, 0xB001#16), (0x3002, 0x5000#16)]
      { RegFile.zero with r0 := 0x00AA#16 }) (fun t => (t.mem.read 0x5000#16, t.cond)) =
      some (0x00AA#16, 0b010#3) := by decide

/-- L2-S3. -/
theorem test_str_wraps :
    after (machine 0x3000#16 [(0x3000, 0x70FF#16)] { RegFile.zero with r0 := 0x7777#16 })
      (fun t => t.mem.read 0xFFFF#16) = some 0x7777#16 := by decide

/-- A word x0000 stored is no longer listed: memory keeps its canonical form. -/
theorem test_str_zero_is_canonical :
    after (machine 0x3000#16 [(0x3000, 0x7040#16), (0x4000, 5#16)] { RegFile.zero with r1 := 0x4000#16 })
      (fun t => t.mem) = some [(0x3000, 0x7040#16)] := by decide

/-! ## Control (section 2.4) -/

/-- L2-C6. -/
theorem test_br_taken_wraps :
    after (machine 0xFFFF#16 [(0xFFFF, 0x03FF#16)] RegFile.zero 0b001#3) (fun t => t.pc) =
      some 0xFFFF#16 := by decide

/-- L2-C3. -/
theorem test_br_not_taken :
    after (machine 0x3000#16 [(0x3000, 0x09FF#16)] RegFile.zero 0b001#3) (fun t => t.pc) =
      some 0x3001#16 := by decide

/-- L2-C8. -/
theorem test_jmp_ret :
    after (machine 0x3010#16 [(0x3010, 0xC1C0#16)] { RegFile.zero with r7 := 0x3003#16 })
      (fun t => (t.pc, t.cond)) = some (0x3003#16, 0b010#3) := by decide

/-- L2-C9. -/
theorem test_jsr_backwards :
    after (machine 0x3000#16 [(0x3000, 0x4C00#16)]) (fun t => (t.reg .r7, t.pc, t.cond)) =
      some (0x3001#16, 0x2C01#16, 0b010#3) := by decide

/-- L2-C12. -/
theorem test_jsrr :
    after (machine 0x3000#16 [(0x3000, 0x4080#16)] { RegFile.zero with r2 := 0x4000#16 })
      (fun t => (t.reg .r7, t.pc)) = some (0x3001#16, 0x4000#16) := by decide

/-- L2-C13. -/
theorem test_jsrr_r7 :
    after (machine 0x3000#16 [(0x3000, 0x41C0#16)] { RegFile.zero with r7 := 0x5000#16 })
      (fun t => (t.reg .r7, t.pc)) = some (0x3001#16, 0x3001#16) := by decide

/-! ## TRAP (section 2.5) -/

/-- L2-T1. -/
theorem test_getc :
    after (ready (machine 0x3000#16 [(0x3000, 0xF020#16)]))
      (fun t => (t.reg .r0, t.reg .r7, t.pc, t.cond, t.console)) =
      some (0x0061#16, 0x3001#16, 0x3001#16, 0b010#3, []) := by decide

/-- L2-T11. -/
theorem test_getc_fails :
    after (broken (machine 0x3000#16 [(0x3000, 0xF020#16)]))
      (fun t => (t.reg .r0, t.reg .r7, t.pc, t.run)) =
      some (0x0000#16, 0x3001#16, 0x3001#16, .deviceError .getc 0x3000#16) := by decide

/-- L2-T2. -/
theorem test_out :
    after (machine 0x3000#16 [(0x3000, 0xF021#16)] { RegFile.zero with r0 := 0x0141#16 })
      (fun t => (t.console, t.reg .r0, t.reg .r7)) = some ([0x41#8], 0x0141#16, 0x3001#16) := by decide

/-- L2-T3. -/
theorem test_puts :
    after (machine 0x3000#16 [(0x3000, 0xF022#16), (0x4000, 0x0048#16), (0x4001, 0x0100#16)]
      { RegFile.zero with r0 := 0x4000#16 }) (fun t => (t.console, t.reg .r7)) =
      some ([0x48#8, 0x00#8], 0x3001#16) := by decide

/-- R136: a loop that has not ended goes on at its pointer, and wraps. -/
theorem test_puts_goes_on :
    after ((machine 0x3001#16 [(0xFFFF, 0x0048#16)]).setHold (some (.puts 0xFFFF#16)))
      (fun t => (t.console, t.hold, t.pc)) = some ([0x48#8], none, 0x3001#16) := by decide

/-- L2-T9, after IN_PROMPT, which is a free value: the engine resumes the held service with its echo. -/
theorem test_in_resumed :
    after { ready (machine 0x3001#16 [] RegFile.zero 0b100#3) with hold := some .inSvc }
      (fun t => (t.console, t.reg .r0, t.cond, t.hold)) =
      some ([0x61#8], 0x0061#16, 0b001#3, none) := by decide

/-- L2-T10. -/
theorem test_putsp :
    after (machine 0x3000#16 [(0x3000, 0xF024#16), (0x4000, 0x4948#16), (0x4001, 0x4100#16)]
      { RegFile.zero with r0 := 0x4000#16 }) (fun t => (t.console, t.reg .r7)) =
      some ([0x48#8, 0x49#8, 0x00#8, 0x41#8], 0x3001#16) := by decide

/-- L2-T7. -/
theorem test_halt :
    after (machine 0x3000#16 [(0x3000, 0xFF25#16)]) (fun t => (t.run, t.reg .r7, t.pc, t.console)) =
      some (.halted, 0x3001#16, 0x3001#16, []) := by decide

/-- L2-T5. -/
theorem test_unknown_vector :
    after (machine 0x3000#16 [(0x3000, 0xF026#16)]) (fun t => (t.run, t.reg .r7, t.pc)) =
      some (.fault (.unknownTrapVector 0x26#8 0x3000#16), 0x3001#16, 0x3001#16) := by decide

/-! ## Reserved opcodes and fetch (section 2.6) -/

/-- L2-X1. -/
theorem test_rti :
    after (machine 0x3000#16 [(0x3000, 0x8000#16)]) (fun t => (t.run, t.pc, t.reg .r7)) =
      some (.fault (.reservedOpcode 0x8#4 0x3000#16), 0x3001#16, 0x0000#16) := by decide

/-- L2-X2. -/
theorem test_res :
    after (machine 0x4000#16 [(0x4000, 0xD123#16)]) (fun t => (t.run, t.pc)) =
      some (.fault (.reservedOpcode 0xD#4 0x4000#16), 0x4001#16) := by decide

/-- L2-X4. -/
theorem test_fetch_polls :
    after (ready (machine 0xFE00#16 []))
      (fun t => (t.run, t.pc, t.mem.read 0xFE02#16)) =
      some (.fault (.reservedOpcode 0x8#4 0xFE00#16), 0xFE01#16, 0x0061#16) := by decide

/-- L2-X5. -/
theorem test_fetch_fails :
    after (broken (machine 0xFE00#16 [(0xFE02, 7#16)]))
      (fun t => (t.run, t.pc, t.mem.read 0xFE02#16)) =
      some (.deviceError .poll 0xFE00#16, 0xFE00#16, 7#16) := by decide

/-- P1's image file (R176). -/
theorem test_load_image :
    loadImage (some [0x30#8, 0x00#8, 0xE0#8, 0x02#8, 0xF0#8, 0x22#8, 0x00#8, 0x00#8]) [] =
      some [(0x3000, 0xE002#16), (0x3001, 0xF022#16)] := by decide

/-- L1-12, P5: HALTED exits with 0, an ExecutionFault with its code (R168). -/
theorem test_exit_codes :
    exitCode ⟨1, 2, 3, 4, 5⟩ .halted = 0 ∧
    exitCode ⟨1, 2, 3, 4, 5⟩ (.executionFault (.reservedOpcode 0x8#4 0x3000#16)) = 1 ∧
    exitCodesValid ⟨1, 2, 3, 4, 1⟩ = true ∧ exitCodesValid ⟨1, 1, 3, 4, 5⟩ = false := by decide

/-! ## Witnesses: a state and operands that meet each statement's hypotheses -/

theorem witness_EncodeThenDecode :
    WellFormed (.trap 0x1F#8) = true ∧ WellFormed (.trap 0x26#8) = true ∧
    WellFormed (.br 0b111#3 0x1FF#9) = true ∧ WellFormed .trapHalt = true := by decide

theorem witness_StepRunsDecodedInstruction :
    (machine 0xFDFF#16 []).fetches ∧ (machine 0xFDFF#16 []).pc ≠ Config.kbsrAddr ∧
    { machine 0xFE01#16 [] with signalAt := some 1 }.fetches ∧
    (machine 0xFE01#16 []).pc ≠ Config.kbsrAddr := by decide

theorem witness_FetchIsMemRead :
    (State.reset.fetches ∧ State.reset.tick.pc ≠ Config.kbsrAddr) ∧
    ((unseen (machine 0xFE00#16 [])).fetches ∧ Idle (unseen (machine 0xFE00#16 [])).tick 0xFE00#16) ∧
    ((ready (machine 0xFE00#16 [])).fetches ∧
      Key (ready (machine 0xFE00#16 [])).tick 0xFE00#16 0x61#8) ∧
    ((broken (machine 0xFE00#16 [])).fetches ∧
      Fails (broken (machine 0xFE00#16 [])).tick 0xFE00#16) := by decide

theorem witness_EndedRunTakesNoStep :
    (State.reset.endRun .halted).run = .halted ∧
    (State.reset.raiseReservedOpcode 0x8#4).run = .fault (.reservedOpcode 0x8#4 0x2FFF#16) ∧
    (State.reset.raiseDeviceError .getc 0x2FFF#16).run = .deviceError .getc 0x2FFF#16 ∧
    State.reset.abort.run = .aborted := by decide

theorem witness_SignalAbortsTheRun :
    State.reset.sendSignal.run = .running ∧ State.reset.sendSignal.signalAt = some 0 ∧
    (State.reset.setHold (some .inSvc)).sendSignal.run = .running ∧
    (State.reset.setHold (some .inSvc)).sendSignal.signalAt = some 0 := by decide

theorem witness_HoldWaitsForInput :
    ((State.reset.setHold (some .getc)).run = .running ∧
      (State.reset.setHold (some .getc)).hold = some .getc ∧
      (State.reset.setHold (some .getc)).signalAt ≠ some 0 ∧
      (State.reset.setHold (some .getc)).keyboard.next = none) ∧
    ((State.reset.setHold (some .inSvc)).run = .running ∧
      (State.reset.setHold (some .inSvc)).hold = some .inSvc ∧
      (State.reset.setHold (some .inSvc)).signalAt ≠ some 0 ∧
      (State.reset.setHold (some .inSvc)).keyboard.next = none) := by decide

/-- Input with and without a rest, and endless input. -/
theorem witness_HeldServiceResumes_key :
    let two := (withInput State.reset [.key 0x61#8, .key 0x62#8] []).setHold (some .getc)
    let more := (withEndless State.reset 0x61#8 []).setHold (some .inSvc)
    (two.run = .running ∧ two.signalAt ≠ some 0 ∧ two.hold = some .getc ∧
      two.keyboard.next = some (.key 0x61#8, rest two) ∧ (rest two).events = [.key 0x62#8]) ∧
    (more.run = .running ∧ more.signalAt ≠ some 0 ∧ more.hold = some .inSvc ∧
      more.keyboard.next = some (.key 0x61#8, more.keyboard)) := by decide

theorem witness_HeldServiceResumes_failure :
    let g := (withInput State.reset [.failure, .key 0x62#8] []).setHold (some .getc)
    let i := (broken State.reset).setHold (some .inSvc)
    (g.run = .running ∧ g.signalAt ≠ some 0 ∧ g.hold = some .getc ∧
      g.keyboard.next = some (.failure, rest g)) ∧
    (i.run = .running ∧ i.signalAt ≠ some 0 ∧ i.hold = some .inSvc ∧
      i.keyboard.next = some (.failure, rest i)) ∧
    State.reset.keyboard.next = none := by decide

/-- L1-1, L1-2, and the widths at both ends. -/
theorem witness_ExtensionsFollowR15 :
    sext 0b01111#5 = 0x000F#16 ∧ sext 0b10001#5 = 0xFFF1#16 ∧ sext 1#1 = 0xFFFF#16 ∧
    sext 0x8000#16 = 0x8000#16 ∧ (0 < 1 ∧ 1 ≤ 16) ∧ (0 < 16 ∧ 16 ≤ 16) := by decide

theorem witness_MemReadIsPlain :
    (0xFDFF#16 : Word) ≠ Config.kbsrAddr ∧ (0xFE01#16 : Word) ≠ Config.kbsrAddr ∧
    Config.kbdrAddr ≠ Config.kbsrAddr := by decide

theorem witness_KbsrReadPolls :
    (0xFE01#16 : Word) ≠ Config.kbsrAddr ∧ Idle State.reset 0xFE00#16 ∧
    Idle (unseen State.reset) 0xFE00#16 ∧ Key (ready State.reset) 0xFE00#16 0x61#8 ∧
    Fails (broken State.reset) 0xFE00#16 := by decide

/-- L1-10, L1-11. -/
theorem witness_KeyboardProtocol :
    (ready State.reset).keyAvailable = true ∧
    (ready State.reset).keyboard.next = some (.key 0x61#8, rest (ready State.reset)) ∧
    (rest (ready State.reset)).next = none := by decide

theorem witness_CanonicalMemoriesAreEqual :
    Memory.wf [(0, 1#16), (65535, 2#16)] = true ∧ Memory.wf [(0, 0#16)] = false ∧
    Memory.wf [(1, 1#16), (0, 1#16)] = false ∧ Memory.wf [(65536, 1#16)] = false ∧
    ∀ a : Word, Memory.read [(0, 1#16), (65535, 2#16)] a = Memory.read [(0, 1#16), (65535, 2#16)] a :=
  ⟨rfl, rfl, rfl, rfl, fun _ => rfl⟩

/-- The first and the last word of each row under the row's mask. -/
theorem witness_rows_operate :
    0x1000#16 &&& 0xF020#16 = 0x1000#16 ∧ 0x1FDF#16 &&& 0xF020#16 = 0x1000#16 ∧
    0x1020#16 &&& 0xF020#16 = 0x1020#16 ∧ 0x1FFF#16 &&& 0xF020#16 = 0x1020#16 ∧
    0x5000#16 &&& 0xF020#16 = 0x5000#16 ∧ 0x5FDF#16 &&& 0xF020#16 = 0x5000#16 ∧
    0x5020#16 &&& 0xF020#16 = 0x5020#16 ∧ 0x5FFF#16 &&& 0xF020#16 = 0x5020#16 ∧
    0x9000#16 &&& 0xF000#16 = 0x9000#16 ∧ 0x9FFF#16 &&& 0xF000#16 = 0x9000#16 := by decide

/-- The first and the last word of each row under the row's mask. -/
theorem witness_rows_memory :
    0x2000#16 &&& 0xF000#16 = 0x2000#16 ∧ 0x2FFF#16 &&& 0xF000#16 = 0x2000#16 ∧
    0x3000#16 &&& 0xF000#16 = 0x3000#16 ∧ 0x3FFF#16 &&& 0xF000#16 = 0x3000#16 ∧
    0x6000#16 &&& 0xF000#16 = 0x6000#16 ∧ 0x6FFF#16 &&& 0xF000#16 = 0x6000#16 ∧
    0x7000#16 &&& 0xF000#16 = 0x7000#16 ∧ 0x7FFF#16 &&& 0xF000#16 = 0x7000#16 ∧
    0xA000#16 &&& 0xF000#16 = 0xA000#16 ∧ 0xAFFF#16 &&& 0xF000#16 = 0xA000#16 ∧
    0xB000#16 &&& 0xF000#16 = 0xB000#16 ∧ 0xBFFF#16 &&& 0xF000#16 = 0xB000#16 ∧
    0xE000#16 &&& 0xF000#16 = 0xE000#16 ∧ 0xEFFF#16 &&& 0xF000#16 = 0xE000#16 := by decide

/-- The first and the last word of each row under the row's mask. -/
theorem witness_rows_control :
    0x0000#16 &&& 0xF000#16 = 0x0000#16 ∧ 0x0FFF#16 &&& 0xF000#16 = 0x0000#16 ∧
    0x4800#16 &&& 0xF800#16 = 0x4800#16 ∧ 0x4FFF#16 &&& 0xF800#16 = 0x4800#16 ∧
    0x4000#16 &&& 0xF800#16 = 0x4000#16 ∧ 0x47FF#16 &&& 0xF800#16 = 0x4000#16 ∧
    0xC000#16 &&& 0xF000#16 = 0xC000#16 ∧ 0xCFFF#16 &&& 0xF000#16 = 0xC000#16 ∧
    0x8000#16 &&& 0xF000#16 = 0x8000#16 ∧ 0x8FFF#16 &&& 0xF000#16 = 0x8000#16 ∧
    0xD000#16 &&& 0xF000#16 = 0xD000#16 ∧ 0xDFFF#16 &&& 0xF000#16 = 0xD000#16 := by decide

/-- The first and the last word of each row under the row's mask. -/
theorem witness_rows_trap :
    0xF020#16 &&& 0xF0FF#16 = 0xF020#16 ∧ 0xFF20#16 &&& 0xF0FF#16 = 0xF020#16 ∧
    0xF021#16 &&& 0xF0FF#16 = 0xF021#16 ∧ 0xFF21#16 &&& 0xF0FF#16 = 0xF021#16 ∧
    0xF022#16 &&& 0xF0FF#16 = 0xF022#16 ∧ 0xFF22#16 &&& 0xF0FF#16 = 0xF022#16 ∧
    0xF023#16 &&& 0xF0FF#16 = 0xF023#16 ∧ 0xFF23#16 &&& 0xF0FF#16 = 0xF023#16 ∧
    0xF024#16 &&& 0xF0FF#16 = 0xF024#16 ∧ 0xFF24#16 &&& 0xF0FF#16 = 0xF024#16 ∧
    0xF025#16 &&& 0xF0FF#16 = 0xF025#16 ∧ 0xFF25#16 &&& 0xF0FF#16 = 0xF025#16 := by decide

/-- Both ranges of vectors at the ends that meet the services'. -/
theorem witness_UnknownVectorFaults :
    (0xF01F#16 &&& 0xF000#16 = 0xF000#16 ∧ ((0xF01F#16 : Word).extractLsb' 0 8).toNat < 0x20) ∧
    (0xFF26#16 &&& 0xF000#16 = 0xF000#16 ∧ 0x25 < ((0xFF26#16 : Word).extractLsb' 0 8).toNat) ∧
    (0x1F#8 : Byte).toNat < 0x20 ∧ 0x25 < (0x26#8 : Byte).toNat := by decide

/-- LD's address at the smallest and the largest offset: plain, and at KBSR_ADDR in each of a poll's cases. -/
theorem witness_LdLoads :
    (machine 0xFF01#16 []).pc + sext 0x100#9 ≠ Config.kbsrAddr ∧
    Idle State.reset ((machine 0xFF00#16 []).pc + sext 0x100#9) ∧
    Key (ready (machine 0xFF00#16 [])) ((ready (machine 0xFF00#16 [])).pc + sext 0x100#9) 0x61#8 ∧
    Key (ready (machine 0xFD01#16 [])) ((ready (machine 0xFD01#16 [])).pc + sext 0x0FF#9) 0x61#8 ∧
    Fails (broken (machine 0xFD01#16 [])) ((broken (machine 0xFD01#16 [])).pc + sext 0x0FF#9) := by
  decide

/-- LDI's pointer plain, with plain data and with data at KBSR_ADDR in each of a poll's cases. -/
theorem witness_LdiLoadsIndirect_plain_pointer :
    (machine 0x3001#16 [(0x3001, 0xFE01#16)]).pc + sext 0#9 ≠ Config.kbsrAddr ∧
    (machine 0x3001#16 [(0x3001, 0xFE01#16)]).mem.read 0x3001#16 ≠ Config.kbsrAddr ∧
    Idle (unseen (machine 0x3001#16 [(0x3001, 0xFE00#16)]))
      ((machine 0x3001#16 [(0x3001, 0xFE00#16)]).mem.read 0x3001#16) ∧
    Key (ready (machine 0x3001#16 [(0x3001, 0xFE00#16)]))
      ((machine 0x3001#16 [(0x3001, 0xFE00#16)]).mem.read 0x3001#16) 0x61#8 ∧
    Fails (broken (machine 0x3001#16 [(0x3001, 0xFE00#16)]))
      ((machine 0x3001#16 [(0x3001, 0xFE00#16)]).mem.read 0x3001#16) := by decide

/-- LDI's and STI's pointer at KBSR_ADDR: the poll gives x0000, x8000 or fails; both words are plain
addresses. -/
theorem witness_pointer_is_status :
    Idle (unseen (machine 0xFDFF#16 [])) ((machine 0xFDFF#16 []).pc + sext 1#9) ∧
    Key (ready (machine 0xFDFF#16 [])) ((machine 0xFDFF#16 []).pc + sext 1#9) 0x61#8 ∧
    Fails (broken (machine 0xFDFF#16 [])) ((machine 0xFDFF#16 []).pc + sext 1#9) ∧
    (0x0000#16 : Word) ≠ Config.kbsrAddr ∧ (0x8000#16 : Word) ≠ Config.kbsrAddr := by decide

/-- STI's pointer at a plain address. -/
theorem witness_StiStoresIndirect :
    (machine 0xFDFF#16 []).pc + sext 0#9 ≠ Config.kbsrAddr ∧
    (machine 0xFDFF#16 []).pc + sext 2#9 ≠ Config.kbsrAddr := by decide

/-- LDR's address, wrapping and not. -/
theorem witness_LdrLoads :
    (machine 0x3001#16 [] { RegFile.zero with r2 := 0xFFFF#16 }).reg .r2 + sext 1#6 ≠ Config.kbsrAddr ∧
    Idle (unseen (machine 0x3001#16 [] { RegFile.zero with r2 := 0xFE20#16 }))
      ((machine 0x3001#16 [] { RegFile.zero with r2 := 0xFE20#16 }).reg .r2 + sext 0x20#6) ∧
    Key (ready (machine 0x3001#16 [] { RegFile.zero with r2 := 0xFE20#16 }))
      ((machine 0x3001#16 [] { RegFile.zero with r2 := 0xFE20#16 }).reg .r2 + sext 0x20#6) 0x61#8 ∧
    Fails (broken (machine 0x3001#16 [] { RegFile.zero with r2 := 0xFDE1#16 }))
      ((machine 0x3001#16 [] { RegFile.zero with r2 := 0xFDE1#16 }).reg .r2 + sext 0x1F#6) := by decide

/-- P6's addresses: ST at x3001, LD at x3002. -/
theorem witness_StoreThenLoadRoundTrip :
    (machine 0x3002#16 []).pc + sext 0x1FE#9 ≠ Config.kbsrAddr ∧
    (0x3003#16 : Word) + sext 0x1FD#9 = (machine 0x3002#16 []).pc + sext 0x1FE#9 := by decide

theorem witness_StoredWordIsFetchedNext :
    (machine 0x3001#16 []).fetches ∧ (machine 0x3001#16 []).pc ≠ Config.kbsrAddr := by decide

theorem witness_BrBranches :
    (0b010#3 : BitVec 3) &&& State.reset.cond ≠ 0#3 ∧ (0b111#3 : BitVec 3) &&& State.reset.cond ≠ 0#3 ∧
    (0b101#3 : BitVec 3) &&& State.reset.cond = 0#3 ∧ (0b000#3 : BitVec 3) &&& State.reset.cond = 0#3 ∧
    State.reset.condOneHot ∧ (machine 0#16 [] RegFile.zero 0b100#3).condOneHot ∧
    (machine 0#16 [] RegFile.zero 0b001#3).condOneHot := by decide

/-- The input of GETC and of IN: a key, a failure, nothing. -/
theorem witness_GetcReadsKey :
    (ready State.reset).keyboard.next = some (.key 0x61#8, rest (ready State.reset)) ∧
    (broken State.reset).keyboard.next = some (.failure, rest (broken State.reset)) ∧
    State.reset.keyboard.next = none := by decide

/-- IN's input is GETC's. -/
theorem witness_InPromptsAndReadsKey :
    (ready State.reset).keyboard.next = some (.key 0x61#8, rest (ready State.reset)) ∧
    (broken State.reset).keyboard.next = some (.failure, rest (broken State.reset)) ∧
    State.reset.keyboard.next = none := by decide

/-- A memory whose words from `a` on, `n` of them, are 1. -/
def ones : Nat → Nat → Memory
  | _, 0 => []
  | a, n + 1 => (a, 1#16) :: ones (a + 1) n

theorem ones_readAt (a n b : Nat) (h1 : a ≤ b) (h2 : b < a + n) : (ones a n).readAt b = 1#16 := by
  induction n generalizing a with
  | zero => omega
  | succ n ih =>
    simp only [ones, Memory.readAt]
    split
    · rfl
    · exact ih (a + 1) (by omega) (by omega)

/-- No word is x0000, and the key x61 comes without end. -/
theorem endless_full (answers : List Bool) (hold : Option Hold) :
    EndlessString ((withEndless (machine 0x3001#16 (ones 0 65536)) 0x61#8 answers).setHold hold) 0x61#8 := by
  refine ⟨fun b _ => ?_, rfl, rfl, by decide⟩
  rw [show ((withEndless (machine 0x3001#16 (ones 0 65536)) 0x61#8 answers).setHold hold).mem.read b =
    1#16 from ones_readAt 0 65536 b.toNat (by omega) (by have := b.isLt; omega)]
  decide

/-- PUTS and PUTSP: a string being written, an input that ends, and endless strings whose next poll finds a key and
finds none, at the TRAP and inside the service. -/
theorem witness_PutsRunsItsLoop :
    ((State.reset.setHold (some (.puts 0xFFFF#16))).run = .running ∧
      (State.reset.setHold (some (.puts 0xFFFF#16))).hold = some (.puts 0xFFFF#16) ∧
      (State.reset.setHold (some (.puts 0xFFFF#16))).signalAt ≠ some 0) ∧
    State.reset.keyboard.further = .ends ∧
    (∀ h, EndlessString ((withEndless (machine 0x3001#16 (ones 0 65536)) 0x61#8 [true]).setHold h) 0x61#8 ∧
      ((withEndless (machine 0x3001#16 (ones 0 65536)) 0x61#8 [true]).setHold h).keyAvailable = true) ∧
    (∀ h, EndlessString ((withEndless (machine 0x3001#16 (ones 0 65536)) 0x61#8 [false]).setHold h) 0x61#8 ∧
      ((withEndless (machine 0x3001#16 (ones 0 65536)) 0x61#8 [false]).setHold h).keyAvailable = false) :=
  ⟨by decide, rfl, fun h => ⟨endless_full [true] h, rfl⟩, fun h => ⟨endless_full [false] h, rfl⟩⟩

/-- PUTSP inside its service; its other hypotheses are PUTS's. -/
theorem witness_PutspRunsItsLoop :
    (State.reset.setHold (some (.putsp 0xFFFF#16))).run = .running ∧
    (State.reset.setHold (some (.putsp 0xFFFF#16))).hold = some (.putsp 0xFFFF#16) ∧
    (State.reset.setHold (some (.putsp 0xFFFF#16))).signalAt ≠ some 0 := by decide

/-- The empty string, and one that wraps from xFFFF to x0000. -/
theorem witness_StringServicesWriteStrings :
    HoldsString State.reset.mem (State.reset.reg .r0) [] ∧
    HoldsString (machine 0#16 [(0x0000, 0x4100#16), (0xFFFF, 0x4948#16)]
      { RegFile.zero with r0 := 0xFFFF#16 }).mem 0xFFFF#16 [0x4948#16, 0x4100#16] := by
  simp only [HoldsString]
  decide

/-- An instruction that sets no flag, and one that sets flags but ends the run. -/
theorem witness_OnlySetccInstructionsWriteCond :
    (exec (.jsr 0#11) State.reset = .next (State.reset.linkPc.setPc (State.reset.pcRel 0#11)) ∧
      setsCond (.jsr 0#11) = false) ∧
    (exec (.ld .r0 1#9) (broken (machine 0xFDFF#16 [])) =
        .next (((broken (machine 0xFDFF#16 [])).setKeyboard (rest (broken (machine 0xFDFF#16 []))).afterDraw).pollFailed) ∧
      (((broken (machine 0xFDFF#16 [])).setKeyboard (rest (broken (machine 0xFDFF#16 []))).afterDraw).pollFailed).run ≠
        (broken (machine 0xFDFF#16 [])).run) :=
  ⟨⟨rfl, rfl⟩, rfl, by decide⟩

theorem witness_RegistersWrittenAreTheTables :
    exec .trapGetc (ready State.reset) =
      .next (((((ready State.reset).trapEntry.setKeyboard (rest (ready State.reset))).setReg .r0 0x0061#16)).setHold none) ∧
    (.r6 : Reg) ∉ mayWrite .trapGetc ∧ (.r1 : Reg) ∉ mayWrite .trapGetc := ⟨rfl, by decide⟩

theorem witness_OnlyControlTransfersWritePc :
    exec .trapOut State.reset = .next (State.reset.trapEntry.consoleOut [0x00#8]) ∧
    writesPc .trapOut = false := ⟨rfl, rfl⟩

/-- No store; no poll either; and one of the four services, at the words beside KBSR and KBDR. -/
theorem witness_OnlyStoresAndPollsChangeMemory :
    exec .trapOut State.reset = .next (State.reset.trapEntry.consoleOut [0x00#8]) ∧
    isStore .trapOut = false ∧
    (State.reset.trapEntry.consoleOut [0x00#8]).keyboard.polls = State.reset.keyboard.polls ∧
    (0xFE01#16 : Word) ≠ Config.kbsrAddr ∧ (0xFE01#16 : Word) ≠ Config.kbdrAddr := by
  refine ⟨rfl, ?_⟩
  decide

theorem witness_RunEndsOnlyByItsCauses :
    State.reset.run = .running ∧
    exec .trapHalt State.reset = .next (State.reset.trapEntry.consoleFlush.endRun .halted) ∧
    exec .rti State.reset = .next (State.reset.raiseReservedOpcode 0x8#4) ∧
    exec .res State.reset = .next (State.reset.raiseReservedOpcode 0xD#4) ∧
    exec (.trap 0x26#8) State.reset = .next (State.reset.trapEntry.raiseUnknownVector 0x26#8) :=
  ⟨rfl, rfl, rfl, rfl, rfl⟩

theorem witness_EveryRunningStepCompletes : State.reset.run = .running := rfl

/-- The step from reset: x0000 is BR with cond 000. -/
theorem witness_step :
    step State.reset = .next (machine 0x3001#16 []) := rfl

theorem witness_ConsoleIsAppendOnly :
    step (machine 0x3000#16 [(0x3000, 0xF021#16)]) =
      .next ((machine 0x3001#16 [(0x3000, 0xF021#16)]).trapEntry.consoleOut [0x00#8]) := rfl

theorem witness_InputIsConsumedInOrder :
    step (ready (machine 0x3000#16 [(0x3000, 0xF020#16)])) =
      .next ((((ready (machine 0x3001#16 [(0x3000, 0xF020#16)])).trapEntry.setKeyboard (rest (ready State.reset))).setReg
        .r0 0x0061#16).setHold none) ∧
    (ready State.reset).keyAvailable = true := ⟨rfl, rfl⟩

theorem witness_StartValues :
    State.reset = State.start 0x3000#16 [] Keyboard.silent none := rfl

theorem witness_InvariantHoldsAtStart :
    Memory.wf [(0x3000, 0x8000#16), (0xFFFF, 0xF025#16)] = true := rfl

theorem witness_EveryStepKeepsInvariant :
    State.reset.Inv ∧ step State.reset = .next (machine 0x3001#16 []) := ⟨by decide, rfl⟩

/-- A one-word image that ends at xFFFF, and the words of a file. -/
theorem witness_ImageIsStoredAtItsOrigin :
    imageWords [0x12#8, 0x34#8] = some [0x1234#16] ∧
    imageWords [0xFF#8, 0xFF#8, 0x12#8, 0x34#8] = some [0xFFFF#16, 0x1234#16] ∧
    (0xFFFF#16 : Word).toNat + [0x1234#16].length ≤ 65536 := by decide

/-- Files of no byte, one byte and three bytes, and an image that goes one word past xFFFF. -/
theorem witness_LoadErrorsStopTheLaunch :
    ([] : List Byte).length < 2 ∧ [0x12#8].length < 2 ∧ [0x12#8, 0x34#8, 0x56#8].length % 2 = 1 ∧
    (imageWords [0xFF#8, 0xFF#8, 0x12#8, 0x34#8, 0x56#8, 0x78#8] =
        some [0xFFFF#16, 0x1234#16, 0x5678#16] ∧
      65536 < (0xFFFF#16 : Word).toNat + [0x1234#16, 0x5678#16].length) ∧
    (loadImages [some [0x30#8, 0x00#8, 0x12#8, 0x34#8]] [] = some [(0x3000, 0x1234#16)] ∧
      loadImage (some [0x12#8]) [(0x3000, 0x1234#16)] = none) ∧
    (loadImages [] [] = some [] ∧ loadImage none [] = none) := by decide

end Sys2Proof.Tests
end

section
/-! PROOFS. Sign and zero extension as bits and as numbers (spec/00_scope.md R15). -/

namespace Sys2Proof.Machine

/-- Below the field's width the field's own bits, above it copies of the sign bit. -/
theorem getLsbD_sext {n : Nat} (f : BitVec n) {i : Nat} (hi : i < 16) :
    (sext f).getLsbD i = if i < n then f.getLsbD i else f.getLsbD (n - 1) := by
  simp only [sext, BitVec.getLsbD_signExtend, BitVec.msb_eq_getLsbD_last, hi, decide_true,
    Bool.true_and]

/-- R15's arithmetic form. The sign bit of an `n`-bit field is set exactly from `2 ^ (n - 1)` on. -/
theorem toNat_sext {n : Nat} (f : BitVec n) (hn : n ≤ 16) :
    (sext f).toNat = if f.toNat < 2 ^ (n - 1) then f.toNat else f.toNat + 65536 - 2 ^ n := by
  have hpow : 2 ^ n ≤ 65536 := Nat.pow_le_pow_right (by decide : 0 < 2) hn
  have hsext : (sext f).toNat = f.toNat + if f.msb then 65536 - 2 ^ n else 0 := by
    rw [sext, BitVec.toNat_signExtend, BitVec.toNat_setWidth_of_le hn]
  have hmsb : f.msb = true ↔ ¬ f.toNat < 2 ^ (n - 1) := by
    rw [BitVec.msb_eq_decide, decide_eq_true_eq, Nat.not_lt]
  by_cases hnonneg : f.toNat < 2 ^ (n - 1)
  · rw [hsext, if_neg (fun h => hmsb.mp h hnonneg), if_pos hnonneg, Nat.add_zero]
  · rw [hsext, if_pos (hmsb.mpr hnonneg), if_neg hnonneg]
    exact (Nat.add_sub_assoc hpow _).symm

@[simp] theorem toNat_zext (k : Byte) : (zext k).toNat = k.toNat :=
  BitVec.toNat_setWidth_of_le (by decide)

/-- Settles O11: the sign extension's bits, its arithmetic form, and the zero extension of a byte. -/
theorem extensionsFollowR15 : Obligations.ExtensionsFollowR15 :=
  ⟨fun _ f _ hn => ⟨fun _ hi => getLsbD_sext f hi, toNat_sext f hn⟩, toNat_zext⟩

end Sys2Proof.Machine
end

section
/-! PROOFS. Memory as data, the device registers, the end of a run and its start (spec/10_state.md, spec/20_memory.md). -/

namespace Sys2Proof.Machine

/-! ## Canonical memories -/

/-- A memory in canonical form is not x0000 at its first entry's address. -/
theorem Memory.readAt_head_ne_zero {c : Nat × Word} {m : Memory} (h : Memory.wf (c :: m) = true) :
    Memory.readAt (c :: m) c.1 ≠ 0#16 := by
  obtain ⟨-, hne, -, -⟩ := (Memory.wf_cons c m).mp h
  simpa only [Memory.readAt, if_pos] using hne

/-- A memory that reads like a canonical `c :: m` has an entry at or below `c`'s address. -/
theorem Memory.not_all_above_head {c : Nat × Word} {m m' : Memory} (h : Memory.wf (c :: m) = true)
    (heq : ∀ a < 65536, Memory.readAt (c :: m) a = m'.readAt a) : ¬ ∀ d ∈ m', c.1 < d.1 := by
  intro habove
  obtain ⟨hlt, -, -, -⟩ := (Memory.wf_cons c m).mp h
  exact Memory.readAt_head_ne_zero h ((heq c.1 hlt).trans (Memory.readAt_below habove))

/-- The first entries of two canonical memories that read alike stand at the same address. -/
theorem Memory.head_le_of_readAt_eq {c d : Nat × Word} {m m' : Memory}
    (h : Memory.wf (c :: m) = true) (h' : Memory.wf (d :: m') = true)
    (heq : ∀ a < 65536, Memory.readAt (c :: m) a = Memory.readAt (d :: m') a) : d.1 ≤ c.1 := by
  obtain ⟨-, -, habove, -⟩ := (Memory.wf_cons d m').mp h'
  by_contra hlt
  refine Memory.not_all_above_head h heq fun e he => ?_
  rcases List.mem_cons.mp he with rfl | he
  · omega
  · have := habove e he
    omega

/-- Canonical memories are determined by what they read, by recursion on both lists. -/
theorem Memory.eq_of_readAt_eq {m m' : Memory} (h : m.wf = true) (h' : m'.wf = true)
    (heq : ∀ a < 65536, m.readAt a = m'.readAt a) : m = m' := by
  induction m generalizing m' with
  | nil =>
    cases m' with
    | nil => rfl
    | cons d m' => exact absurd (by simp) (Memory.not_all_above_head h' fun a ha => (heq a ha).symm)
  | cons c m ih =>
    cases m' with
    | nil => exact absurd (by simp) (Memory.not_all_above_head h heq)
    | cons d m' =>
      have hkey : c.1 = d.1 := Nat.le_antisymm
        (Memory.head_le_of_readAt_eq h' h fun a ha => (heq a ha).symm)
        (Memory.head_le_of_readAt_eq h h' heq)
      obtain ⟨hlt, -, habove, hm⟩ := (Memory.wf_cons c m).mp h
      obtain ⟨-, -, habove', hm'⟩ := (Memory.wf_cons d m').mp h'
      have hval : c.2 = d.2 := by simpa [Memory.readAt, hkey] using heq c.1 hlt
      have htail : ∀ a < 65536, Memory.readAt m a = Memory.readAt m' a := fun a ha => by
        by_cases hca : c.1 = a
        · subst hca
          rw [Memory.readAt_below habove, Memory.readAt_below (hkey ▸ habove')]
        · simpa only [Memory.readAt, if_neg hca, if_neg (hkey ▸ hca)] using heq a ha
      rw [Prod.ext hkey hval, ih hm hm' htail]

/-- Settles O18, through the reads at every address below 65536. -/
theorem canonicalMemoriesAreEqual : Obligations.CanonicalMemoriesAreEqual :=
  fun _ _ h h' heq => Memory.eq_of_readAt_eq h h' fun a ha => by
    simpa only [Memory.read, BitVec.toNat_ofNat, Nat.mod_eq_of_lt ha] using heq (BitVec.ofNat 16 a)

/-! ## The device registers -/

theorem State.memRead_kbsr (s : State) : s.memRead Config.kbsrAddr = s.pollKeyboard := if_pos rfl

theorem State.memRead_of_ne {s : State} {a : Word} (h : a ≠ Config.kbsrAddr) :
    s.memRead a = .value (s.mem.read a) s := if_neg h

/-- A poll that finds no key (R53). -/
theorem State.pollKeyboard_idle {s : State} (h : s.keyAvailable = false) :
    s.pollKeyboard = .value 0x0000#16 (s.afterQuery.memWrite Config.kbsrAddr 0x0000#16) := by
  rcases s.pollKeyboard_cases with ⟨-, hp⟩ | ⟨_, _, hk, -, -⟩ | ⟨_, hk, -, -⟩
  · exact hp
  all_goals simp [h] at hk

/-- A poll that finds the key `k` (R53). -/
theorem State.pollKeyboard_key {s : State} {k : Byte} {rest : Keyboard} (h : s.keyAvailable = true)
    (hn : s.keyboard.next = some (.key k, rest)) :
    s.pollKeyboard = .value 0x8000#16
      (((s.setKeyboard rest.afterDraw).memWrite Config.kbdrAddr (zext k)).memWrite
        Config.kbsrAddr 0x8000#16) := by
  rcases s.pollKeyboard_cases with ⟨hk, -⟩ | ⟨_, _, -, hn', hp⟩ | ⟨_, -, hn', -⟩
  · simp [h] at hk
  · cases hn.symm.trans hn'
    exact hp
  · cases hn.symm.trans hn'

/-- A poll whose ReadKey fails (R56). -/
theorem State.pollKeyboard_failure {s : State} {rest : Keyboard} (h : s.keyAvailable = true)
    (hn : s.keyboard.next = some (.failure, rest)) :
    s.pollKeyboard = .failed (s.setKeyboard rest.afterDraw) := by
  rcases s.pollKeyboard_cases with ⟨hk, -⟩ | ⟨_, _, -, hn', -⟩ | ⟨_, -, hn', hp⟩
  · simp [h] at hk
  · cases hn.symm.trans hn'
  · cases hn.symm.trans hn'
    exact hp

/-- A poll depends on the keyboard alone, which a store leaves unchanged, and its own store of the status hides what
was stored in KBSR before (R39). -/
theorem State.pollKeyboard_after_kbsr_write (s : State) (v : Word) :
    (∃ w u u', (s.memWrite Config.kbsrAddr v).pollKeyboard = .value w u ∧
        s.pollKeyboard = .value w u' ∧ SameWords u u') ∨
      ∃ u u', (s.memWrite Config.kbsrAddr v).pollKeyboard = .failed u ∧ s.pollKeyboard = .failed u' := by
  have havail : (s.memWrite Config.kbsrAddr v).keyAvailable = s.keyAvailable := rfl
  rcases s.pollKeyboard_cases with ⟨hk, hp⟩ | ⟨k, rest, hk, hn, hp⟩ | ⟨rest, hk, hn, hp⟩
  · refine .inl ⟨_, _, _, pollKeyboard_idle (havail.trans hk), hp, fun a => ?_⟩
    by_cases ha : a = Config.kbsrAddr <;> simp [ha]
  · refine .inl ⟨_, _, _, pollKeyboard_key (havail.trans hk) hn, hp, fun a => ?_⟩
    by_cases ha : a = Config.kbsrAddr <;> simp [ha]
  · exact .inr ⟨_, _, pollKeyboard_failure (havail.trans hk) hn, hp⟩

/-- Settles O16: KBSR by the cases of the poll, KBDR as a plain cell. -/
theorem deviceRegisterWrites : Obligations.DeviceRegisterWrites := by
  intro s v
  constructor
  · simpa only [State.memRead_kbsr] using s.pollKeyboard_after_kbsr_write v
  · rw [State.memRead_of_ne (by decide : Config.kbdrAddr ≠ Config.kbsrAddr)]
    simp

/-! ## The end of a run, and its start -/

/-- A run that has ended answers its outcome (R146, R150). -/
theorem step_of_ended {s : State} {f : Fault} (h : endedFault s.run = some f) : step s = .fault f := by
  simp only [step, h]

/-- Settles O7: each value of RUN but RUNNING has its outcome. -/
theorem endedRunTakesNoStep : Obligations.EndedRunTakesNoStep :=
  fun _ => ⟨fun h => step_of_ended (h ▸ rfl), fun _ h => step_of_ended (h ▸ rfl),
    fun _ _ h => step_of_ended (h ▸ rfl), fun h => step_of_ended (h ▸ rfl)⟩

@[simp] theorem RegFile.get_zero (r : Reg) : RegFile.zero.get r = 0#16 := by
  cases r <;> rfl

/-- Settles O55: each field of `State.start`. -/
theorem startValues : Obligations.StartValues := by
  rintro pc0 mem0 kbd sig s rfl
  exact ⟨RegFile.get_zero, rfl, rfl, rfl, rfl, rfl, rfl⟩

/-- Settles O56: reset is the start with nothing loaded and a silent keyboard. -/
theorem resetValues : Obligations.ResetValues := by
  obtain ⟨hreg, hpc, hcond, hmem, hrun, hconsole, -⟩ :=
    startValues Config.resetPc [] Keyboard.silent none State.reset rfl
  exact ⟨hreg, hcond, fun _ => by rw [hmem]; rfl, hrun, hconsole, hpc, rfl, rfl, rfl⟩

theorem State.start_inv (pc0 : Word) {mem0 : Memory} (kbd : Keyboard) (sig : Option Nat)
    (h : mem0.wf = true) : (State.start pc0 mem0 kbd sig).Inv :=
  ⟨h, .inr (.inl rfl), Nat.le_refl _, fun hhold => absurd rfl hhold⟩

/-- Settles O57: reset is the start with the empty memory, which is canonical. -/
theorem invariantHoldsAtStart : Obligations.InvariantHoldsAtStart :=
  ⟨State.start_inv _ _ _ rfl, fun pc0 _ kbd sig h => State.start_inv pc0 kbd sig h⟩

end Sys2Proof.Machine
end

section
/-! PROOFS. What an instruction can do, as a list of state updates it is allowed (spec/10_state.md R23, R27, R31;
spec/40_engine.md R112), said once for all instructions; from it the frames of registers, COND and pc, and the
invariant's step. -/

namespace Sys2Proof.Machine

/-! ## The updates an instruction is allowed -/

/-- `u` comes from `s` by state updates that `i` is allowed, none of which writes COND or RUN. -/
inductive Updates (i : Instr) (s : State) : State → Prop where
  | refl : Updates i s s
  /-- A register of R23's table. -/
  | setReg {u : State} {r : Reg} (v : Word) : Updates i s u → r ∈ mayWrite i →
      Updates i s (u.setReg r v)
  /-- A control transfer (R27). -/
  | setPc {u : State} (target : Word) : Updates i s u → writesPc i = true → Updates i s (u.setPc target)
  /-- A store, or a poll's write of the device registers (R71, R72). -/
  | memWrite {u : State} {a : Word} (v : Word) : Updates i s u →
      isStore i = true ∨ a = Config.kbsrAddr ∨ a = Config.kbdrAddr → Updates i s (u.memWrite a v)
  | setKeyboard {u : State} (k : Keyboard) : Updates i s u → Updates i s (u.setKeyboard k)
  | consoleOut {u : State} (bs : List Byte) : Updates i s u → Updates i s (u.consoleOut bs)
  | consoleFlush {u : State} : Updates i s u → Updates i s u.consoleFlush
  | setHold {u : State} (h : Option Hold) : Updates i s u → Updates i s (u.setHold h)

/-- `t` is what `i` can make of `s`: updates alone, or updates and last a write of the flags (R31) or a terminal event
(R112). So no instruction writes COND and ends the run. -/
inductive Does (i : Instr) (s : State) : State → Prop where
  | goesOn {t : State} : Updates i s t → Does i s t
  | setsFlags {u : State} (v : Word) : Updates i s u → setsCond i = true → Does i s (u.setcc v)
  | endsRun {u : State} (r : RunState) : Updates i s u → Does i s (u.endRun r)

section Frames

variable {i : Instr} {s t u : State}

theorem Updates.cond (h : Updates i s u) : u.cond = s.cond := by
  induction h with
  | refl => rfl
  | _ => assumption

theorem Updates.run (h : Updates i s u) : u.run = s.run := by
  induction h with
  | refl => rfl
  | _ => assumption

theorem Updates.pc (h : Updates i s u) (hi : writesPc i = false) : u.pc = s.pc := by
  induction h with
  | refl => rfl
  | setPc _ _ hpc => simp [hi] at hpc
  | _ => assumption

theorem Updates.reg {r : Reg} (h : Updates i s u) (hr : r ∉ mayWrite i) : u.reg r = s.reg r := by
  induction h with
  | refl => rfl
  | setReg v _ hq ih => rw [State.setReg_reg, if_neg (ne_of_mem_of_not_mem hq hr).symm, ih]
  | _ => assumption

theorem Does.cond (h : Does i s t) (hi : setsCond i = false ∨ t.run ≠ s.run) : t.cond = s.cond := by
  cases h with
  | goesOn hu => exact hu.cond
  | setsFlags _ hu hc =>
    rcases hi with hi | hi
    · simp [hi] at hc
    · exact absurd hu.run hi
  | endsRun _ hu => exact hu.cond

theorem Does.pc (h : Does i s t) (hi : writesPc i = false) : t.pc = s.pc := by
  cases h with
  | goesOn hu | setsFlags _ hu _ | endsRun _ hu => exact hu.pc hi

theorem Does.reg {r : Reg} (h : Does i s t) (hr : r ∉ mayWrite i) : t.reg r = s.reg r := by
  cases h with
  | goesOn hu | setsFlags _ hu _ | endsRun _ hu => exact hu.reg hr

/-! ## The invariant under the updates -/

/-- The end of a run leaves no hold, so the invariant asks nothing of RUN. -/
theorem State.Inv.endRun (hs : s.Inv) (r : RunState) : (s.endRun r).Inv := by
  obtain ⟨hmem, hcond, hflush, -⟩ := hs
  exact ⟨hmem, hcond, hflush, fun h => absurd rfl h⟩

theorem State.Inv.setcc (hs : s.Inv) (v : Word) : (s.setcc v).Inv := by
  obtain ⟨hmem, -, hflush, hhold⟩ := hs
  exact ⟨hmem, condOf_cases v, hflush, hhold⟩

/-- Updates keep the invariant in a run: a hold is set only there. -/
theorem Updates.inv (h : Updates i s u) (hs : s.Inv) (hrun : s.run = .running) : u.Inv := by
  induction h with
  | refl => exact hs
  | setReg | setPc | setKeyboard => assumption
  | memWrite _ _ _ ih =>
    obtain ⟨hmem, hcond, hflush, hhold⟩ := ih
    exact ⟨Memory.write_wf _ _ hmem, hcond, hflush, hhold⟩
  | consoleOut bs _ ih =>
    obtain ⟨hmem, hcond, hflush, hhold⟩ := ih
    exact ⟨hmem, hcond, hflush.trans (by simp), hhold⟩
  | consoleFlush _ ih =>
    obtain ⟨hmem, hcond, -, hhold⟩ := ih
    exact ⟨hmem, hcond, Nat.le_refl _, hhold⟩
  | setHold _ hu ih =>
    obtain ⟨hmem, hcond, hflush, -⟩ := ih
    exact ⟨hmem, hcond, hflush, fun _ => hu.run.trans hrun⟩

theorem Does.inv (h : Does i s t) (hs : s.Inv) (hrun : s.run = .running) : t.Inv := by
  cases h with
  | goesOn hu => exact hu.inv hs hrun
  | setsFlags v hu _ => exact (hu.inv hs hrun).setcc v
  | endsRun r hu => exact (hu.inv hs hrun).endRun r

/-! ## What the shared operations do -/

theorem Updates.memRead_value {a v : Word} {w : State} (hu : Updates i s u)
    (h : u.memRead a = .value v w) : Updates i s w := by
  rcases State.memRead_value h with ⟨-, -, rfl⟩ | ⟨-, -, -, rfl⟩ | ⟨k, rest, -, -, -, -, rfl⟩
  · exact hu
  · exact (hu.setKeyboard _).memWrite _ (.inr (.inl rfl))
  · exact ((hu.setKeyboard _).memWrite _ (.inr (.inr rfl))).memWrite _ (.inr (.inl rfl))

/-- A failing MemRead ends the run, after an event was taken (R56). -/
theorem Updates.memRead_failed {a : Word} {w : State} (hu : Updates i s u)
    (h : u.memRead a = .failed w) : Does i s w.pollFailed := by
  obtain ⟨rest, -, -, -, rfl⟩ := State.memRead_failed h
  exact .endsRun _ (hu.setKeyboard _)

/-- A write of a destination register and the flags (R107). -/
theorem Updates.writeDest {dr : Reg} (hu : Updates i s u) (v : Word) (hdr : dr ∈ mayWrite i)
    (hc : setsCond i = true) : Does i s (u.writeDest dr v) :=
  .setsFlags v (hu.setReg v hdr) hc

theorem Updates.loadWord {dr : Reg} {ea : Word} (hu : Updates i s u) (hdr : dr ∈ mayWrite i)
    (hc : setsCond i = true) (h : loadWord dr ea u = .next t) : Does i s t := by
  rcases loadWord_cases dr ea u with ⟨v, w, hr, hl⟩ | ⟨w, hr, hl⟩ <;> cases hl.symm.trans h
  · exact (hu.memRead_value hr).writeDest v hdr hc
  · exact hu.memRead_failed hr

theorem Updates.getcRead (hu : Updates .trapGetc s u) (h : getcRead u = .next t) :
    Does .trapGetc s t := by
  unfold Machine.getcRead at h
  rcases u.readKey_cases with ⟨-, hk⟩ | ⟨k, rest, -, hk⟩ | ⟨rest, -, hk⟩ <;> rw [hk] at h <;> cases h
  · exact .goesOn (hu.setHold _)
  · exact .goesOn (((hu.setKeyboard _).setReg _ (by decide)).setHold _)
  · exact .endsRun _ (hu.setKeyboard _)

/-- IN's flags are its last write but for the hold, and the two writes commute. -/
theorem Updates.inRead (hu : Updates .trapIn s u) (h : inRead u = .next t) : Does .trapIn s t := by
  unfold Machine.inRead at h
  rcases u.readKey_cases with ⟨-, hk⟩ | ⟨k, rest, -, hk⟩ | ⟨rest, -, hk⟩ <;> rw [hk] at h <;> cases h
  · exact .goesOn (hu.setHold _)
  · exact .setsFlags (zext k)
      ((((hu.setKeyboard _).consoleOut [k]).setReg (zext k) (by decide)).setHold none) rfl
  · exact .endsRun _ (hu.setKeyboard _)

theorem Updates.putsLoop {bytesOf : Word → List Byte} {inside : Word → Hold} {fuel : Nat} {a : Word}
    (hu : Updates i s u) (h : putsLoop bytesOf inside fuel a u = .next t) : Does i s t := by
  induction fuel generalizing a u with
  | zero =>
    cases h
    exact .goesOn (hu.setHold _)
  | succ n ih =>
    unfold Machine.putsLoop at h
    split at h
    · next w v hr =>
      have hv := hu.memRead_value hr
      split at h
      · cases h
        exact .goesOn (hv.setHold _)
      · exact ih (hv.consoleOut _) h
    · next v hr =>
      cases h
      exact hu.memRead_failed hr

end Frames

/-! ## What an instruction does -/

/-- TRAP's entry is the write of R7 (R131). -/
theorem Updates.trapEntry {i : Instr} {s : State} (h : Reg.r7 ∈ mayWrite i) : Updates i s s.trapEntry :=
  .setReg _ .refl h

/-- Every instruction makes only updates it is allowed, and writes flags or ends the run only last. -/
theorem exec_does {i : Instr} {s t : State} (h : exec i s = .next t) : Does i s t := by
  cases i
  case addReg | addImm | andReg | andImm | not | lea =>
    cases h
    exact Updates.refl.writeDest _ List.mem_cons_self rfl
  case ld | ldr => exact Updates.refl.loadWord List.mem_cons_self rfl h
  case ldi dr off =>
    change execLdi dr off s = .next t at h
    unfold execLdi at h
    split at h
    · next ea u hr => exact (Updates.refl.memRead_value hr).loadWord List.mem_cons_self rfl h
    · next u hr =>
      cases h
      exact Updates.refl.memRead_failed hr
  case st | str =>
    cases h
    exact .goesOn (.memWrite _ .refl (.inl rfl))
  case sti sr off =>
    change execSti sr off s = .next t at h
    unfold execSti at h
    split at h
    · next ea u hr =>
      cases h
      exact .goesOn ((Updates.refl.memRead_value hr).memWrite _ (.inl rfl))
    · next u hr =>
      cases h
      exact Updates.refl.memRead_failed hr
  case br cond off =>
    cases h
    split
    · exact .goesOn (.setPc _ .refl rfl)
    · exact .goesOn .refl
  case jmp =>
    cases h
    exact .goesOn (.setPc _ .refl rfl)
  case jsr | jsrr =>
    cases h
    exact .goesOn (.setPc _ (.setReg _ .refl List.mem_cons_self) rfl)
  case rti | res =>
    cases h
    exact .endsRun _ .refl
  case trapGetc => exact (Updates.trapEntry (by decide)).getcRead h
  case trapIn => exact ((Updates.trapEntry (by decide)).consoleOut _).consoleFlush.inRead h
  case trapPuts | trapPutsp => exact (Updates.trapEntry (by decide)).putsLoop h
  case trapOut =>
    cases h
    exact .goesOn ((Updates.trapEntry (by decide)).consoleOut _)
  case trapHalt =>
    cases h
    exact .endsRun _ (Updates.trapEntry (by decide)).consoleFlush
  case trap v =>
    cases h
    exact .endsRun _ (Updates.trapEntry List.mem_cons_self)

/-- Settles O47: the flags are written only where `setsCond` allows it, and never beside a terminal event. -/
theorem onlySetccInstructionsWriteCond : Obligations.OnlySetccInstructionsWriteCond :=
  fun _ _ _ h hi => (exec_does h).cond hi

/-- Settles O48: a register is written only where `mayWrite` lists it. -/
theorem registersWrittenAreTheTables : Obligations.RegistersWrittenAreTheTables :=
  fun _ _ _ _ h hr => (exec_does h).reg hr

/-- Settles O49: pc is written only where `writesPc` allows it. -/
theorem onlyControlTransfersWritePc : Obligations.OnlyControlTransfersWritePc :=
  fun _ _ _ h hi => (exec_does h).pc hi

/-! ## What a step does -/

/-- The instruction whose service the engine is inside of. -/
def Hold.instr : Hold → Instr
  | .getc => .trapGetc
  | .inSvc => .trapIn
  | .puts _ => .trapPuts
  | .putsp _ => .trapPutsp

/-- A service that goes on does what its instruction may do (R167). -/
theorem resume_does {h : Hold} {s t : State} (ht : resume h s = .next t) : Does h.instr s t := by
  cases h with
  | getc => exact Updates.refl.getcRead ht
  | inSvc => exact Updates.refl.inRead ht
  | puts a | putsp a => exact Updates.refl.putsLoop ht

/-- The fetch is a MemRead, the increment of pc touches nothing of the invariant, and `exec_does` says the rest. -/
theorem fetchExec_inv {s t : State} (hs : s.Inv) (hrun : s.run = .running)
    (h : fetchExec s = .next t) : t.Inv := by
  unfold fetchExec at h
  split at h
  · next ir u hr =>
    have hu : Updates (decode ir) s u := Updates.refl.memRead_value hr
    exact (exec_does h).inv (hu.inv hs hrun) (hu.run.trans hrun)
  · next u hr =>
    cases h
    obtain ⟨rest, -, -, -, rfl⟩ := State.memRead_failed hr
    exact State.Inv.endRun (s := s.setKeyboard rest.afterDraw) hs _

theorem turn_inv {s t : State} (hs : s.Inv) (hrun : s.run = .running) (h : turn s = .next t) :
    t.Inv := by
  unfold turn at h
  split at h
  · exact (resume_does h).inv hs hrun
  · exact fetchExec_inv hs hrun h

/-- Settles O58: the signal ends the run, and a turn keeps the invariant. -/
theorem everyStepKeepsInvariant : Obligations.EveryStepKeepsInvariant := by
  intro s t hs h
  obtain ⟨hrun, ⟨-, rfl⟩ | ⟨-, hturn⟩⟩ := step_next_cases h
  · exact hs.endRun _
  · exact turn_inv (s := s.tick) hs hrun hturn

end Sys2Proof.Machine
end

section
/-! PROOFS. MemRead, MemWrite and the fetch (spec/20_memory.md R51 to R57, R69 to R72; spec/40_engine.md R103): what one
MemRead does in each of its cases, how a fetch hands its word to `exec`, and which instructions change a word. -/

namespace Sys2Proof.Machine

/-! ## MemRead and MemWrite -/

/-- Settles O13: the read after the write, and the fields a store leaves alone. -/
theorem memWriteIsDirectStore : Obligations.MemWriteIsDirectStore :=
  fun s a v => ⟨fun b => Memory.read_write s.mem a b v, fun _ => rfl, rfl, rfl, rfl, rfl, rfl, rfl, rfl, rfl⟩

/-- Settles O14. -/
theorem memReadIsPlain : Obligations.MemReadIsPlain :=
  fun _ _ h => State.memRead_of_ne h

theorem State.setKeyboard_onlyKeyboardAndMemory (s : State) (k : Keyboard) :
    OnlyKeyboardAndMemory s (s.setKeyboard k) :=
  ⟨fun _ => rfl, rfl, rfl, rfl, rfl, rfl, rfl, rfl⟩

/-- The read that took the event `e` took one draw. -/
theorem State.setKeyboard_drawTaken {s : State} {e : KeyEvent} {rest : Keyboard}
    (hn : s.keyboard.next = some (e, rest)) : DrawTaken s (s.setKeyboard rest.afterDraw) rest := by
  obtain ⟨hanswers, hpolls⟩ := Keyboard.next_draws hn
  exact ⟨rfl, rfl, congrArg List.tail hanswers, congrArg (· + 1) hpolls⟩

/-- The state after a poll that found no key. -/
theorem State.afterQuery_pollIdle (s : State) :
    PollIdle s (s.afterQuery.memWrite Config.kbsrAddr 0x0000#16) :=
  ⟨s.setKeyboard_onlyKeyboardAndMemory s.keyboard.afterDraw, ⟨rfl, rfl, rfl, rfl⟩,
    fun a => Memory.read_write s.mem Config.kbsrAddr a 0x0000#16⟩

/-- The state after a poll that found a key: KBDR is written, then KBSR. -/
theorem State.setKeyboard_pollKey {s : State} {k : Byte} {rest : Keyboard}
    (hn : s.keyboard.next = some (.key k, rest)) :
    PollKey s (((s.setKeyboard rest.afterDraw).memWrite Config.kbdrAddr (zext k)).memWrite
      Config.kbsrAddr 0x8000#16) k rest :=
  ⟨s.setKeyboard_onlyKeyboardAndMemory rest.afterDraw, State.setKeyboard_drawTaken hn, fun a => by simp⟩

/-- The state after a poll whose ReadKey failed. -/
theorem State.setKeyboard_pollFails {s : State} {rest : Keyboard}
    (hn : s.keyboard.next = some (.failure, rest)) :
    PollFails s (s.setKeyboard rest.afterDraw) rest :=
  ⟨s.setKeyboard_onlyKeyboardAndMemory _, State.setKeyboard_drawTaken hn, fun _ => rfl⟩

/-- Settles O15: away from KBSR_ADDR the read is plain, and there it is the poll, case by case. -/
theorem kbsrReadPolls : Obligations.KbsrReadPolls := by
  refine fun s a => ⟨State.memRead_of_ne, ?_, ?_, ?_⟩
  · rintro rfl hk
    exact ⟨_, s.afterQuery_pollIdle, s.memRead_kbsr.trans (State.pollKeyboard_idle hk)⟩
  · rintro k rest rfl hk hn
    exact ⟨_, State.setKeyboard_pollKey hn, s.memRead_kbsr.trans (State.pollKeyboard_key hk hn)⟩
  · rintro rest rfl hk hn
    exact ⟨_, State.setKeyboard_pollFails hn, s.memRead_kbsr.trans (State.pollKeyboard_failure hk hn)⟩

/-- A MemRead that answers changed nothing, or it took one draw and changed only keyboard and memory. -/
theorem State.memRead_value_frame {s u : State} {a v : Word} (h : s.memRead a = .value v u) :
    u = s ∨ OnlyKeyboardAndMemory s u ∧ u.keyboard.polls = s.keyboard.polls + 1 := by
  rcases State.memRead_value h with ⟨-, -, hu⟩ | ⟨-, -, -, rfl⟩ | ⟨k, rest, -, -, hn, -, rfl⟩
  · exact .inl hu
  · obtain ⟨hframe, ⟨-, -, -, hpolls⟩, -⟩ := s.afterQuery_pollIdle
    exact .inr ⟨hframe, hpolls⟩
  · obtain ⟨hframe, ⟨-, -, -, hpolls⟩, -⟩ := State.setKeyboard_pollKey hn
    exact .inr ⟨hframe, hpolls⟩

theorem State.memRead_value_pc {s u : State} {a v : Word} (h : s.memRead a = .value v u) :
    u.pc = s.pc := by
  rcases State.memRead_value_frame h with rfl | ⟨⟨-, -, hpc, -⟩, -⟩
  · rfl
  · exact hpc

theorem State.memRead_failed_pc {s u : State} {a : Word} (h : s.memRead a = .failed u) :
    u.pc = s.pc := by
  obtain ⟨rest, -, -, -, rfl⟩ := State.memRead_failed h
  rfl

/-! ## The fetch -/

/-- What holds of every word read and every state after it may be weakened. -/
theorem ReadCases.mono {s : State} {a : Word} {ok ok' : Word → State → Prop} {bad bad' : State → Prop}
    (h : ReadCases s a ok bad) (hok : ∀ v u, ok v u → ok' v u) (hbad : ∀ u, bad u → bad' u) :
    ReadCases s a ok' bad' := by
  obtain ⟨hplain, hidle, hkey, hfail⟩ := h
  refine ⟨fun ha => hok _ _ (hplain ha), fun ha hk => ?_, fun k rest ha hk hn => ?_,
    fun rest ha hk hn => ?_⟩
  · obtain ⟨u, hu, hv⟩ := hidle ha hk
    exact ⟨u, hu, hok _ _ hv⟩
  · obtain ⟨u, hu, hv⟩ := hkey k rest ha hk hn
    exact ⟨u, hu, hok _ _ hv⟩
  · obtain ⟨u, hu, hv⟩ := hfail rest ha hk hn
    exact ⟨u, hu, hbad _ hv⟩

/-- The word fetched is decoded and executed after the increment (R103). -/
theorem fetchExec_value {s u : State} {ir : Word} (h : s.memRead s.pc = .value ir u) :
    fetchExec s = exec (decode ir) u.advancePc := by
  simp only [fetchExec, State.fetch, h]

/-- A fetch that fails ends the run (R103, R155). -/
theorem fetchExec_failed {s u : State} (h : s.memRead s.pc = .failed u) :
    fetchExec s = .next u.fetchFailed := by
  simp only [fetchExec, State.fetch, h]

theorem State.fetchFailed_endsRun (u : State) :
    EndsRun u u.fetchFailed (.deviceError .poll u.pc) :=
  ⟨rfl, rfl, fun _ => rfl, rfl, rfl, fun _ => rfl, rfl, rfl, rfl, rfl⟩

/-- Settles O6: the fetch has the cases of MemRead at pc, which leaves pc to the increment. -/
theorem fetchIsMemRead : Obligations.FetchIsMemRead := by
  intro s hs
  refine (kbsrReadPolls s.tick s.pc).mono (fun ir u hr => ?_) (fun u hr => ?_)
  · have hpc : u.pc = s.pc := State.memRead_value_pc (s := s.tick) hr
    rw [step_of_fetches hs, fetchExec_value hr, State.advancePc, hpc]
  · have hpc : u.pc = s.pc := State.memRead_failed_pc (s := s.tick) hr
    exact ⟨u.fetchFailed, (step_of_fetches hs).trans (fetchExec_failed hr), hpc ▸ u.fetchFailed_endsRun⟩

/-- Away from KBSR_ADDR a step executes the word at pc. -/
theorem step_of_plain_fetch {s : State} (hs : s.fetches) (hpc : s.pc ≠ Config.kbsrAddr) :
    step s = exec (decode (s.mem.read s.pc)) s.tick.advancePc :=
  (step_of_fetches hs).trans (fetchExec_value (State.memRead_of_ne hpc))

theorem State.pcRel_zero (s : State) : s.pcRel 0#9 = s.pc :=
  BitVec.add_zero s.pc

/-- Settles O32: the store changes only the word at pc, so the next step fetches that word. -/
theorem storedWordIsFetchedNext : Obligations.StoredWordIsFetchedNext := by
  intro sr s hs hpc
  have hst : exec (.st sr 0#9) s = .next (s.memWrite s.pc (s.reg sr)) :=
    congrArg (fun ea => Host.Outcome.next (s.memWrite ea (s.reg sr))) s.pcRel_zero
  have hword : (s.memWrite s.pc (s.reg sr)).mem.read s.pc = s.reg sr := by simp
  have hstep := step_of_plain_fetch (s := s.memWrite s.pc (s.reg sr)) hs hpc
  rw [State.memWrite_pc, hword] at hstep
  exact ⟨_, hst, hstep⟩

/-! ## The cases of the operations that read memory or the keyboard -/

/-- Everything LDI can do (R120). -/
theorem execLdi_cases (dr : Reg) (off : BitVec 9) (s : State) :
    (∃ ea u, s.memRead (s.pcRel off) = .value ea u ∧ exec (.ldi dr off) s = loadWord dr ea u) ∨
    ∃ u, s.memRead (s.pcRel off) = .failed u ∧ exec (.ldi dr off) s = .next u.pollFailed := by
  cases h : s.memRead (s.pcRel off) with
  | value ea u => exact .inl ⟨ea, u, rfl, by simp only [exec, execLdi, h]⟩
  | failed u => exact .inr ⟨u, rfl, by simp only [exec, execLdi, h]⟩

/-- Everything STI can do (R124). -/
theorem execSti_cases (sr : Reg) (off : BitVec 9) (s : State) :
    (∃ ea u, s.memRead (s.pcRel off) = .value ea u ∧
      exec (.sti sr off) s = .next (u.memWrite ea (u.reg sr))) ∨
    ∃ u, s.memRead (s.pcRel off) = .failed u ∧ exec (.sti sr off) s = .next u.pollFailed := by
  cases h : s.memRead (s.pcRel off) with
  | value ea u => exact .inl ⟨ea, u, rfl, by simp only [exec, execSti, h]⟩
  | failed u => exact .inr ⟨u, rfl, by simp only [exec, execSti, h]⟩

/-- Everything GETC's read can do (R134, R148, R167). -/
theorem getcRead_cases (s : State) :
    (s.keyboard.next = none ∧ getcRead s = .next (s.setHold (some .getc))) ∨
    (∃ k rest, s.keyboard.next = some (.key k, rest) ∧
      getcRead s = .next (((s.setKeyboard rest).setReg .r0 (zext k)).setHold none)) ∨
    ∃ rest, s.keyboard.next = some (.failure, rest) ∧
      getcRead s = .next ((s.setKeyboard rest).raiseDeviceError .getc s.instrAddr) := by
  unfold getcRead
  rcases s.readKey_cases with ⟨hn, hk⟩ | ⟨k, rest, hn, hk⟩ | ⟨rest, hn, hk⟩ <;> rw [hk]
  · exact .inl ⟨hn, rfl⟩
  · exact .inr (.inl ⟨k, rest, hn, rfl⟩)
  · exact .inr (.inr ⟨rest, hn, rfl⟩)

/-- Everything IN's read can do (R137, R148, R167). -/
theorem inRead_cases (s : State) :
    (s.keyboard.next = none ∧ inRead s = .next (s.setHold (some .inSvc))) ∨
    (∃ k rest, s.keyboard.next = some (.key k, rest) ∧
      inRead s = .next ((((s.setKeyboard rest).consoleOut [k]).writeDest .r0 (zext k)).setHold none)) ∨
    ∃ rest, s.keyboard.next = some (.failure, rest) ∧
      inRead s = .next ((s.setKeyboard rest).raiseDeviceError .inSvc s.instrAddr) := by
  unfold inRead
  rcases s.readKey_cases with ⟨hn, hk⟩ | ⟨k, rest, hn, hk⟩ | ⟨rest, hn, hk⟩ <;> rw [hk]
  · exact .inl ⟨hn, rfl⟩
  · exact .inr (.inl ⟨k, rest, hn, rfl⟩)
  · exact .inr (.inr ⟨rest, hn, rfl⟩)

/-! ## Which words an instruction changes -/

theorem getcRead_mem {s t : State} (h : getcRead s = .next t) : t.mem = s.mem := by
  rcases getcRead_cases s with ⟨-, hg⟩ | ⟨k, rest, -, hg⟩ | ⟨rest, -, hg⟩ <;> cases hg.symm.trans h <;> rfl

theorem inRead_mem {s t : State} (h : inRead s = .next t) : t.mem = s.mem := by
  rcases inRead_cases s with ⟨-, hg⟩ | ⟨k, rest, -, hg⟩ | ⟨rest, -, hg⟩ <;> cases hg.symm.trans h <;> rfl

/-- The services that never poll leave memory alone (R72). -/
theorem exec_mem_of_pollless_service {i : Instr} {s t : State}
    (hi : i = .trapGetc ∨ i = .trapOut ∨ i = .trapIn ∨ i = .trapHalt) (h : exec i s = .next t) :
    t.mem = s.mem := by
  rcases hi with rfl | rfl | rfl | rfl
  · exact getcRead_mem (s := s.trapEntry) h
  · cases h
    rfl
  · exact inRead_mem (s := (s.trapEntry.consoleOut Config.inPrompt).consoleFlush) h
  · cases h
    rfl

/-- Between `s` and `t` no draw was given back, and every word is as before unless a draw was taken: what holds of a
chain of MemReads (R71, R72). -/
structure KeepsWordsUnlessPolled (s t : State) : Prop where
  polls_le : s.keyboard.polls ≤ t.keyboard.polls
  sameWords : t.keyboard.polls = s.keyboard.polls → SameWords s t

section Polls

variable {s t u : State}

theorem KeepsWordsUnlessPolled.of_same (hmem : t.mem = s.mem) (hkeyboard : t.keyboard = s.keyboard) :
    KeepsWordsUnlessPolled s t :=
  ⟨Nat.le_of_eq (by rw [hkeyboard]), fun _ _ => by rw [hmem]⟩

theorem KeepsWordsUnlessPolled.trans (h : KeepsWordsUnlessPolled s u)
    (h' : KeepsWordsUnlessPolled u t) : KeepsWordsUnlessPolled s t := by
  have hsu := h.polls_le
  have hut := h'.polls_le
  refine ⟨hsu.trans hut, fun heq a => ?_⟩
  exact (h'.sameWords (by omega) a).trans (h.sameWords (by omega) a)

theorem KeepsWordsUnlessPolled.of_draw (h : t.keyboard.polls = s.keyboard.polls + 1) :
    KeepsWordsUnlessPolled s t :=
  ⟨by omega, fun heq => by omega⟩

theorem KeepsWordsUnlessPolled.of_consoleOut {bs : List Byte}
    (h : KeepsWordsUnlessPolled (s.consoleOut bs) t) : KeepsWordsUnlessPolled s t :=
  ⟨h.polls_le, h.sameWords⟩

theorem KeepsWordsUnlessPolled.memRead_value {a v : Word} (h : s.memRead a = .value v u) :
    KeepsWordsUnlessPolled s u := by
  rcases State.memRead_value_frame h with rfl | ⟨-, hpolls⟩
  · exact .of_same rfl rfl
  · exact .of_draw hpolls

theorem KeepsWordsUnlessPolled.memRead_failed {a : Word} (h : s.memRead a = .failed u) :
    KeepsWordsUnlessPolled s u := by
  obtain ⟨rest, -, -, hn, rfl⟩ := State.memRead_failed h
  obtain ⟨-, -, -, hpolls⟩ := State.setKeyboard_drawTaken hn
  exact .of_draw hpolls

theorem KeepsWordsUnlessPolled.loadWord {dr : Reg} {ea : Word} (h : loadWord dr ea s = .next t) :
    KeepsWordsUnlessPolled s t := by
  rcases loadWord_cases dr ea s with ⟨v, u, hr, hl⟩ | ⟨u, hr, hl⟩ <;> cases hl.symm.trans h
  · exact .trans (.memRead_value hr) (.of_same rfl rfl)
  · exact .trans (.memRead_failed hr) (.of_same rfl rfl)

theorem StringRun.keepsWordsUnlessPolled {bytesOf : Word → List Byte} {a : Word}
    (h : StringRun bytesOf a s t) : KeepsWordsUnlessPolled s t := by
  induction h with
  | stop hr => exact .trans (.memRead_value hr) (.of_same rfl rfl)
  | more hr _ _ ih => exact .trans (.memRead_value hr) ih.of_consoleOut
  | failed hr hend =>
    obtain ⟨-, -, -, -, -, hwords, hkeyboard, -⟩ := hend
    exact .trans (.memRead_failed hr) ⟨Nat.le_of_eq (by rw [hkeyboard]), fun _ => hwords⟩

theorem StringGoesOn.keepsWordsUnlessPolled {bytesOf : Word → List Byte} {inside : Word → Hold}
    {n : Nat} {a : Word} (h : StringGoesOn bytesOf inside n a s t) : KeepsWordsUnlessPolled s t := by
  induction h with
  | pause => exact .of_same rfl rfl
  | more hr _ _ ih => exact .trans (.memRead_value hr) ih.of_consoleOut

theorem KeepsWordsUnlessPolled.putsLoop {bytesOf : Word → List Byte} {inside : Word → Hold}
    {fuel : Nat} {a : Word} (h : putsLoop bytesOf inside fuel a s = .next t) :
    KeepsWordsUnlessPolled s t := by
  obtain ⟨t', ht, hrun | hon⟩ := putsLoop_cases bytesOf inside fuel a s <;> cases ht.symm.trans h
  · exact hrun.keepsWordsUnlessPolled
  · exact hon.keepsWordsUnlessPolled

end Polls

/-- An instruction that is no store and took no draw leaves every word. -/
theorem exec_sameWords_of_no_draw {i : Instr} {s t : State} (h : exec i s = .next t)
    (hi : isStore i = false) (hpolls : t.keyboard.polls = s.keyboard.polls) : SameWords s t := by
  cases i
  case st | str | sti => cases hi
  case trapGetc | trapOut | trapIn | trapHalt =>
    exact fun a => by rw [exec_mem_of_pollless_service (by simp) h]
  case ld | ldr => exact (KeepsWordsUnlessPolled.loadWord h).sameWords hpolls
  case ldi dr off =>
    rcases execLdi_cases dr off s with ⟨ea, u, hr, hl⟩ | ⟨u, hr, hl⟩
    · exact ((KeepsWordsUnlessPolled.memRead_value hr).trans (.loadWord (hl.symm.trans h))).sameWords
        hpolls
    · cases hl.symm.trans h
      exact (KeepsWordsUnlessPolled.memRead_failed hr).sameWords hpolls
  case trapPuts | trapPutsp =>
    exact (KeepsWordsUnlessPolled.putsLoop (s := s.trapEntry) h).sameWords hpolls
  case br =>
    cases h
    split <;> exact fun _ => rfl
  all_goals
    cases h
    exact fun _ => rfl

theorem Updates.read_of_not_store {i : Instr} {s u : State} {a : Word} (h : Updates i s u)
    (hi : isStore i = false) (hkbsr : a ≠ Config.kbsrAddr) (hkbdr : a ≠ Config.kbdrAddr) :
    u.mem.read a = s.mem.read a := by
  induction h with
  | refl => rfl
  | @memWrite u b v _ hb ih =>
    have hab : a ≠ b := by
      rintro rfl
      simp [hi, hkbsr, hkbdr] at hb
    rw [State.memWrite_mem, Memory.read_write, if_neg hab, ih]
  | _ => assumption

theorem Does.read_of_not_store {i : Instr} {s t : State} {a : Word} (h : Does i s t)
    (hi : isStore i = false) (hkbsr : a ≠ Config.kbsrAddr) (hkbdr : a ≠ Config.kbdrAddr) :
    t.mem.read a = s.mem.read a := by
  cases h with
  | goesOn hu | setsFlags _ hu _ | endsRun _ hu => exact hu.read_of_not_store hi hkbsr hkbdr

/-- Settles O50: the updates of a non-store write only KBSR and KBDR, and only where a draw was taken. -/
theorem onlyStoresAndPollsChangeMemory : Obligations.OnlyStoresAndPollsChangeMemory :=
  fun _ _ _ h => ⟨fun hi _ hkbsr hkbdr => (exec_does h).read_of_not_store hi hkbsr hkbdr,
    exec_sameWords_of_no_draw h, fun hi a => by rw [exec_mem_of_pollless_service hi h]⟩

/-! ## Every step completes -/

theorem loadWord_completes (dr : Reg) (ea : Word) (s : State) : ∃ t, loadWord dr ea s = .next t := by
  rcases loadWord_cases dr ea s with ⟨_, _, -, h⟩ | ⟨_, -, h⟩ <;> exact ⟨_, h⟩

theorem getcRead_completes (s : State) : ∃ t, getcRead s = .next t := by
  rcases getcRead_cases s with ⟨-, h⟩ | ⟨_, _, -, h⟩ | ⟨_, -, h⟩ <;> exact ⟨_, h⟩

theorem inRead_completes (s : State) : ∃ t, inRead s = .next t := by
  rcases inRead_cases s with ⟨-, h⟩ | ⟨_, _, -, h⟩ | ⟨_, -, h⟩ <;> exact ⟨_, h⟩

theorem putsLoop_completes (bytesOf : Word → List Byte) (inside : Word → Hold) (fuel : Nat) (a : Word)
    (s : State) : ∃ t, putsLoop bytesOf inside fuel a s = .next t := by
  obtain ⟨t, h, -⟩ := putsLoop_cases bytesOf inside fuel a s
  exact ⟨t, h⟩

/-- Every instruction answers a next state: none is refused (R108, R147). -/
theorem exec_completes (i : Instr) (s : State) : ∃ t, exec i s = .next t := by
  cases i
  case ld | ldr => exact loadWord_completes _ _ _
  case ldi dr off =>
    rcases execLdi_cases dr off s with ⟨ea, u, -, h⟩ | ⟨_, -, h⟩
    · rw [h]
      exact loadWord_completes dr ea u
    · exact ⟨_, h⟩
  case sti sr off =>
    rcases execSti_cases sr off s with ⟨_, _, -, h⟩ | ⟨_, -, h⟩ <;> exact ⟨_, h⟩
  case trapGetc => exact getcRead_completes _
  case trapIn => exact inRead_completes _
  case trapPuts | trapPutsp => exact putsLoop_completes _ _ _ _ _
  all_goals exact ⟨_, rfl⟩

theorem resume_completes (h : Hold) (s : State) : ∃ t, resume h s = .next t := by
  cases h with
  | getc => exact getcRead_completes s
  | inSvc => exact inRead_completes s
  | puts | putsp => exact putsLoop_completes _ _ _ _ _

theorem fetchExec_completes (s : State) : ∃ t, fetchExec s = .next t := by
  cases h : s.memRead s.pc with
  | value ir u =>
    rw [fetchExec_value h]
    exact exec_completes _ _
  | failed u => exact ⟨_, fetchExec_failed h⟩

theorem turn_completes (s : State) : ∃ t, turn s = .next t := by
  unfold turn
  split
  · exact resume_completes _ s
  · exact fetchExec_completes s

/-- A due signal ends the run (R154). -/
theorem step_of_signal {s : State} (hrun : s.run = .running) (hs : s.signalAt = some 0) :
    step s = .next s.abort := by
  simp only [step, hrun, endedFault, runTurn, if_pos hs]

/-- Settles O52: the signal is taken, or the turn of the engine completes. -/
theorem everyRunningStepCompletes : Obligations.EveryRunningStepCompletes := by
  intro s hrun
  by_cases hs : s.signalAt = some 0
  · exact ⟨_, step_of_signal hrun hs⟩
  · rw [step_of_running hrun hs]
    exact turn_completes s.tick

end Sys2Proof.Machine
end

section
/-! PROOFS. The encoder and the decoder (spec/30_encoding.md): the words that decode to `i` are exactly the encoder's
word of `i` with anything in the ignored bits of R94. -/

namespace Sys2Proof

/-- `w` is a word of `i`: `i` is an instruction, and off its ignored bits `w` is what the encoder writes. -/
def IsWordOf (w : Word) (i : Instr) : Prop :=
  WellFormed i = true ∧ encode i = w &&& ~~~ ignoredBits i

/-! ## Bits of the formats -/

/-- `bit_of_match` in simp's spelling. -/
theorem getElem_of_match {w mask pattern : Word} (h : w &&& mask = pattern) :
    ∀ i : Nat, mask.getLsbD i = true → ∀ hi : i < 16, w[i] = pattern[i] :=
  fun i hm _ => bit_of_match h i hm

@[simp] theorem formatTwoReg_jsrrMode (op : BitVec 4) (b : BitVec 3) (low : BitVec 6) :
    (formatTwoReg op 0b000#3 b low)[11] = false :=
  BitVec.getLsbD_append.trans <| (if_neg (by decide)).trans <| BitVec.getLsbD_append.trans <|
    (if_neg (by decide)).trans (BitVec.getLsbD_append.trans (if_pos (by decide)))

@[simp] theorem formatNone_op (op : BitVec 4) : (formatNone op).extractLsb' 12 4 = op :=
  (extract_append_upper _ _ 12 4 (by decide)).trans BitVec.extractLsb'_eq_self

/-! ## A word as the fields of a format -/

/-- Two adjacent slices of a word are one slice. -/
theorem append_slices (w : Word) (lo m n : Nat) :
    w.extractLsb' (lo + m) n ++ w.extractLsb' lo m = w.extractLsb' lo (n + m) :=
  BitVec.extractLsb'_append_extractLsb'_eq_extractLsb' rfl

theorem formatTwoReg_fields (w : Word) :
    formatTwoReg (w.extractLsb' 12 4) (w.extractLsb' 9 3) (w.extractLsb' 6 3) (w.extractLsb' 0 6) = w := by
  refine Eq.trans ?_ (BitVec.extractLsb'_eq_self (x := w))
  rw [← append_slices w 0 6 10, ← append_slices w 6 3 7, ← append_slices w 9 3 4]
  rfl

theorem formatPc9_fields (w : Word) :
    formatPc9 (w.extractLsb' 12 4) (w.extractLsb' 9 3) (w.extractLsb' 0 9) = w := by
  refine Eq.trans ?_ (BitVec.extractLsb'_eq_self (x := w))
  rw [← append_slices w 0 9 7, ← append_slices w 9 3 4]
  rfl

theorem formatJ11_fields (w : Word) :
    formatJ11 (w.extractLsb' 12 4) (w.extractLsb' 11 1) (w.extractLsb' 0 11) = w := by
  refine Eq.trans ?_ (BitVec.extractLsb'_eq_self (x := w))
  rw [← append_slices w 0 11 5, ← append_slices w 11 1 4]
  rfl

/-- A mask on a word of two register fields acts on each field. -/
theorem formatTwoReg_and (op : BitVec 4) (a b ma mb : BitVec 3) (low ml : BitVec 6) :
    formatTwoReg op a b low &&& formatTwoReg 0xF#4 ma mb ml =
      formatTwoReg op (a &&& ma) (b &&& mb) (low &&& ml) :=
  and_mask_append _ _ _ _ _ _
    (and_mask_append _ _ _ _ _ _ (and_mask_append _ _ _ _ _ _ BitVec.and_allOnes rfl) rfl) rfl

/-! ## The decoder's fields in the encoder's formats -/

section Fields

variable {w : Word} {op : BitVec 4}

/-- The formats with two register fields: each field under its part of the mask, the bits of `ign` as zeros (R94). -/
theorem formatTwoReg_of_fields {a b ma mb : BitVec 3} {low ml : BitVec 6} (ign : Word)
    (hop : (w.extractLsb' 12 4).toNat = op.toNat) (ha : w.extractLsb' 9 3 &&& ma = a)
    (hb : w.extractLsb' 6 3 &&& mb = b) (hlow : w.extractLsb' 0 6 &&& ml = low)
    (hmask : formatTwoReg 0xF#4 ma mb ml = ~~~ ign) : formatTwoReg op a b low = w &&& ~~~ ign := by
  rw [← ha, ← hb, ← hlow, ← hmask, ← formatTwoReg_and, ← BitVec.eq_of_toNat_eq hop, formatTwoReg_fields]

theorem formatPc9_of_fields {a : BitVec 3} (hop : (w.extractLsb' 12 4).toNat = op.toNat)
    (ha : w.extractLsb' 9 3 &&& 0b111#3 = a) :
    formatPc9 op a (w.extractLsb' 0 9) = w &&& ~~~ 0#16 := by
  rw [← ha, ← BitVec.eq_of_toNat_eq hop]
  exact (congrArg (formatPc9 _ · _) BitVec.and_allOnes).trans ((formatPc9_fields w).trans BitVec.and_allOnes.symm)

theorem regA_field (w : Word) : w.extractLsb' 9 3 &&& 0b111#3 = (regA w).toBits :=
  BitVec.and_allOnes.trans (Reg.toBits_ofBits _).symm

theorem regB_field (w : Word) : w.extractLsb' 6 3 &&& 0b111#3 = (regB w).toBits :=
  BitVec.and_allOnes.trans (Reg.toBits_ofBits _).symm

theorem bit_slice_of_set {i : Nat} (h : w.getLsbD i = true) : w.extractLsb' i 1 = 0b1#1 := by
  ext j hj
  obtain rfl : j = 0 := by omega
  simpa using h

/-- Mode 1 (R91). -/
theorem lowOpI_field (h : w.getLsbD 5 = true) :
    w.extractLsb' 0 6 &&& 0b111111#6 = lowOpI (w.extractLsb' 0 5) := by
  rw [lowOpI, ← bit_slice_of_set h]
  exact BitVec.and_allOnes.trans (append_slices w 0 5 1).symm

/-- Mode 0 (R91), its two ignored bits dropped (R94). -/
theorem lowOpR_field (h : ¬ w.getLsbD 5 = true) :
    w.extractLsb' 0 6 &&& 0b100111#6 = lowOpR (regC w) := by
  have hlow : ∀ low : BitVec 6, low.getLsbD 5 = false →
      low &&& 0b100111#6 = lowOpR (Reg.ofBits (low.extractLsb' 0 3)) := by decide
  simpa [regC] using hlow (w.extractLsb' 0 6) (by simpa using h)

/-- Format OP-I. -/
theorem formatOpI_of_fields (hop : (w.extractLsb' 12 4).toNat = op.toNat) (h : w.getLsbD 5 = true) :
    formatTwoReg op (regA w).toBits (regB w).toBits (lowOpI (w.extractLsb' 0 5)) = w &&& ~~~ 0#16 :=
  formatTwoReg_of_fields 0#16 hop (regA_field w) (regB_field w) (lowOpI_field h) rfl

/-- Format OP-R. -/
theorem formatOpR_of_fields (hop : (w.extractLsb' 12 4).toNat = op.toNat) (h : ¬ w.getLsbD 5 = true) :
    formatTwoReg op (regA w).toBits (regB w).toBits (lowOpR (regC w)) = w &&& ~~~ 0x0018#16 :=
  formatTwoReg_of_fields 0x0018#16 hop (regA_field w) (regB_field w) (lowOpR_field h) rfl

/-- Format BO6. -/
theorem formatBo6_of_fields (hop : (w.extractLsb' 12 4).toNat = op.toNat) :
    formatTwoReg op (regA w).toBits (regB w).toBits (w.extractLsb' 0 6) = w &&& ~~~ 0#16 :=
  formatTwoReg_of_fields (ml := .allOnes 6) 0#16 hop (regA_field w) (regB_field w) BitVec.and_allOnes rfl

/-- The mode bit of JSRR is the top bit of ir[11:9] (R91). -/
theorem jsrrMode_field (h : ¬ w.getLsbD 11 = true) : w.extractLsb' 9 3 &&& 0b100#3 = 0b000#3 := by
  have ha : ∀ a : BitVec 3, a.getLsbD 2 = false → a &&& 0b100#3 = 0b000#3 := by decide
  exact ha _ (by simpa using h)

theorem formatJ11_of_fields (hop : (w.extractLsb' 12 4).toNat = op.toNat) (h : w.getLsbD 11 = true) :
    formatJ11 op 0b1#1 (w.extractLsb' 0 11) = w &&& ~~~ 0#16 := by
  rw [← bit_slice_of_set h, ← BitVec.eq_of_toNat_eq hop, formatJ11_fields]
  exact BitVec.and_allOnes.symm

theorem formatNone_of_fields (hop : (w.extractLsb' 12 4).toNat = op.toNat) :
    formatNone op = w &&& ~~~ 0x0FFF#16 := by
  have hw : op ++ w.extractLsb' 0 12 = w := by
    rw [← BitVec.eq_of_toNat_eq hop]
    exact (append_slices w 0 12 4).trans BitVec.extractLsb'_eq_self
  conv_rhs => rw [← hw]
  exact (and_mask_append op 0xF#4 op _ 0x000#12 0x000#12 BitVec.and_allOnes BitVec.and_zero).symm

theorem formatTrap_of_fields (hop : (w.extractLsb' 12 4).toNat = 0xF) :
    formatTrap (w.extractLsb' 0 8) = w &&& ~~~ 0x0F00#16 := by
  have hw : w = 0xF#4 ++ w.extractLsb' 8 4 ++ w.extractLsb' 0 8 := by
    refine (BitVec.extractLsb'_eq_self (x := w)).symm.trans ?_
    rw [← append_slices w 0 8 8, ← append_slices w 8 4 4, ← BitVec.eq_of_toNat_eq (y := 0xF#4) hop]
  conv_rhs => rw [hw]
  exact (and_mask_append _ 0xF0#8 0xF0#8 _ 0xFF#8 _
    (and_mask_append 0xF#4 0xF#4 0xF#4 _ 0x0#4 0x0#4 rfl BitVec.and_zero) BitVec.and_allOnes).symm

end Fields

/-! ## TRAP's rows -/

theorem encode_decodeTrap (v : Byte) : encode (decodeTrap v) = formatTrap v := by
  unfold decodeTrap
  split_ifs <;> simp_all [encode]

theorem ignoredBits_decodeTrap (v : Byte) : ignoredBits (decodeTrap v) = 0x0F00#16 := by
  unfold decodeTrap
  split_ifs <;> rfl

theorem wellFormed_decodeTrap (v : Byte) : WellFormed (decodeTrap v) = true := by
  unfold decodeTrap
  split_ifs
  case neg => simp_all [WellFormed, isServiceVector, serviceVectors]
  all_goals rfl

theorem decodeTrap_of_wellFormed {v : Byte} (h : WellFormed (.trap v) = true) : decodeTrap v = .trap v := by
  simp_all [WellFormed, isServiceVector, serviceVectors, decodeTrap]

theorem isWordOf_decodeTrap {w : Word} (hop : (w.extractLsb' 12 4).toNat = 0xF) :
    IsWordOf w (decodeTrap (w.extractLsb' 0 8)) :=
  ⟨wellFormed_decodeTrap _, by rw [encode_decodeTrap, ignoredBits_decodeTrap, formatTrap_of_fields hop]⟩

/-! ## The words of an instruction -/

/-- Each opcode's fields, put back into its format, give the word but for the ignored bits (R94). -/
theorem isWordOf_decode (w : Word) : IsWordOf w (decode w) := by
  unfold decode
  split
  next hop => exact ⟨rfl, formatPc9_of_fields hop BitVec.and_allOnes⟩
  next hop =>
    split
    · next hmode => exact ⟨rfl, formatOpI_of_fields hop hmode⟩
    · next hmode => exact ⟨rfl, formatOpR_of_fields hop hmode⟩
  next hop => exact ⟨rfl, formatPc9_of_fields hop (regA_field w)⟩
  next hop => exact ⟨rfl, formatPc9_of_fields hop (regA_field w)⟩
  next hop =>
    split
    · next hmode => exact ⟨rfl, formatJ11_of_fields hop hmode⟩
    · next hmode =>
      exact ⟨rfl, formatTwoReg_of_fields 0x063F#16 hop (jsrrMode_field hmode) (regB_field w) BitVec.and_zero rfl⟩
  next hop =>
    split
    · next hmode => exact ⟨rfl, formatOpI_of_fields hop hmode⟩
    · next hmode => exact ⟨rfl, formatOpR_of_fields hop hmode⟩
  next hop => exact ⟨rfl, formatBo6_of_fields hop⟩
  next hop => exact ⟨rfl, formatBo6_of_fields hop⟩
  next hop => exact ⟨rfl, formatNone_of_fields hop⟩
  next hop => exact ⟨rfl, formatTwoReg_of_fields 0x003F#16 hop (regA_field w) (regB_field w) BitVec.and_zero rfl⟩
  next hop => exact ⟨rfl, formatPc9_of_fields hop (regA_field w)⟩
  next hop => exact ⟨rfl, formatPc9_of_fields hop (regA_field w)⟩
  next hop => exact ⟨rfl, formatTwoReg_of_fields 0x0E3F#16 hop BitVec.and_zero (regB_field w) BitVec.and_zero rfl⟩
  next hop => exact ⟨rfl, formatNone_of_fields hop⟩
  next hop => exact ⟨rfl, formatPc9_of_fields hop (regA_field w)⟩
  next =>
    have hlt := (w.extractLsb' 12 4).isLt
    simp only [imp_false] at *
    exact isWordOf_decodeTrap (by omega)

/-- The decoder reads each field of the encoder's word; no mask of R94 covers one. -/
theorem IsWordOf.decode_eq {w : Word} {i : Instr} (h : IsWordOf w i) : decode w = i := by
  obtain ⟨hwf, henc⟩ := h
  have field := slice_of_match henc.symm
  have bit := getElem_of_match henc.symm
  cases i <;> simp only [encode, ignoredBits] at field bit
  case br => simp [decode, field 12 4 rfl, field 9 3 rfl, field 0 9 rfl]
  case ld | ldi | lea | st | sti => simp [decode, regA, field 12 4 rfl, field 9 3 rfl, field 0 9 rfl]
  case addReg | andReg =>
    simp [decode, regA, regB, regC, field 12 4 rfl, field 9 3 rfl, field 6 3 rfl, field 0 3 rfl, bit 5 rfl (by decide)]
  case addImm | andImm =>
    simp [decode, regA, regB, field 12 4 rfl, field 9 3 rfl, field 6 3 rfl, field 0 5 rfl, bit 5 rfl (by decide)]
  case ldr | str => simp [decode, regA, regB, field 12 4 rfl, field 9 3 rfl, field 6 3 rfl, field 0 6 rfl]
  case not => simp [decode, regA, regB, field 12 4 rfl, field 9 3 rfl, field 6 3 rfl]
  case jsr => simp [decode, field 12 4 rfl, field 0 11 rfl, bit 11 rfl (by decide)]
  case jsrr => simp [decode, regB, field 12 4 rfl, field 6 3 rfl, bit 11 rfl (by decide)]
  case jmp => simp [decode, regB, field 12 4 rfl, field 6 3 rfl]
  case rti | res => simp [decode, field 12 4 rfl]
  case trap => simp [decode, field 12 4 rfl, field 0 8 rfl, decodeTrap_of_wellFormed hwf]
  case trapGetc | trapOut | trapPuts | trapIn | trapPutsp | trapHalt =>
    simp [decode, field 12 4 rfl, field 0 8 rfl]
    rfl

/-- The encoder writes the ignored bits as zeros (log 14). -/
theorem encode_and_ignoredBits (i : Instr) : encode i &&& ignoredBits i = 0#16 := by
  cases i
  case addReg dr sr1 sr2 => exact (Laws.EncodesItsRow.addReg dr sr1 sr2).2
  case andReg dr sr1 sr2 => exact (Laws.EncodesItsRow.andReg dr sr1 sr2).2
  case jsrr base => exact (Laws.EncodesItsRow.jsrr base).2
  case not dr sr => exact (Laws.EncodesItsRow.not dr sr).2
  case jmp base => exact (Laws.EncodesItsRow.jmp base).2
  case trap v => exact (Laws.EncodesItsRow.trap v).2
  case rti | res | trapGetc | trapOut | trapPuts | trapIn | trapPutsp | trapHalt => rfl
  all_goals exact BitVec.and_zero

theorem isWordOf_encode {i : Instr} (hwf : WellFormed i = true) : IsWordOf (encode i) i := by
  refine ⟨hwf, BitVec.eq_of_getElem_eq fun j hj => ?_⟩
  have hzero : (encode i &&& ignoredBits i)[j] = false := by simp [encode_and_ignoredBits]
  rw [BitVec.getElem_and] at hzero
  rw [BitVec.getElem_and, BitVec.getElem_not]
  revert hzero
  cases (encode i)[j] <;> cases (ignoredBits i)[j] <;> decide

/-- Any content of the ignored bits gives a word of the same instruction (R94). -/
theorem IsWordOf.with_ignored {w : Word} {i : Instr} (h : IsWordOf w i) (x : Word) :
    IsWordOf ((w &&& ~~~ ignoredBits i) ||| (x &&& ignoredBits i)) i := by
  obtain ⟨hwf, henc⟩ := h
  refine ⟨hwf, henc.trans ?_⟩
  ext j hj
  simp only [BitVec.getElem_and, BitVec.getElem_or, BitVec.getElem_not]
  cases w[j] <;> cases x[j] <;> cases (ignoredBits i)[j] <;> rfl

theorem isWordOf_iff_decode_eq {w : Word} {i : Instr} : IsWordOf w i ↔ decode w = i :=
  ⟨IsWordOf.decode_eq, fun h => h ▸ isWordOf_decode w⟩

/-! ## The obligations -/

/-- Settles O2: the encoder's word of an instruction is a word of it. -/
theorem encodeThenDecode : Obligations.EncodeThenDecode :=
  fun _ hwf => isWordOf_iff_decode_eq.mp (isWordOf_encode hwf)

/-- Settles O3: every word is a word of what it decodes to. -/
theorem decodeThenEncode : Obligations.DecodeThenEncode :=
  isWordOf_decode

/-- Settles O4: with other ignored bits the word is one of the same instruction. -/
theorem ignoredBitsNeverMatter : Obligations.IgnoredBitsNeverMatter :=
  fun w x => isWordOf_iff_decode_eq.mp ((isWordOf_decode w).with_ignored x)

/-- Settles O1: the decoder run on each word. -/
theorem sampleWordsDecode : Obligations.SampleWordsDecode := by
  unfold Obligations.SampleWordsDecode
  decide

end Sys2Proof
end

section
/-! PROOFS. The engine (spec/40_engine.md R102 to R113): a step that fetches, the flag update, and what an instruction
may leave RUN at. -/

namespace Sys2Proof.Machine

/-! ## The step and the flags -/

/-- Settles O5: the increment and the countdown of the plain fetch are the two fields the statement writes out. -/
theorem stepRunsDecodedInstruction : Obligations.StepRunsDecodedInstruction :=
  fun _ hs hpc => step_of_plain_fetch hs hpc

theorem State.setcc_sameHost (s : State) (v : Word) : SameHost s (s.setcc v) :=
  ⟨rfl, rfl, rfl, rfl, rfl⟩

/-- Settles O12: the flag is R106's, one of the three, and the only field written. -/
theorem setccSetsOneFlag : Obligations.SetccSetsOneFlag :=
  fun s v => ⟨condOf_eq_flagOf v, rfl, condOf_cases v, fun _ => rfl, rfl, fun _ => rfl, rfl,
    s.setcc_sameHost v⟩

/-! ## Where RUN stands after the shared operations -/

/-- From `s` to `t` RUN is unchanged, or a keyboard read at `site` has failed (R148). -/
def RunKeptUnlessFails (site : DeviceSite) (s t : State) : Prop :=
  t.run = s.run ∨ ∃ addr, t.run = .deviceError site addr

section Run

variable {site : DeviceSite} {s t u : State}

theorem RunKeptUnlessFails.of_run_eq (h : RunKeptUnlessFails site u t) (hrun : u.run = s.run) :
    RunKeptUnlessFails site s t :=
  h.imp_left (·.trans hrun)

theorem State.memRead_value_run {a v : Word} (h : s.memRead a = .value v u) : u.run = s.run := by
  rcases State.memRead_value_frame h with rfl | ⟨⟨-, -, -, hrun, -⟩, -⟩
  · rfl
  · exact hrun

theorem State.pollFailed_runKeptUnlessFails (s u : State) : RunKeptUnlessFails .poll s u.pollFailed :=
  .inr ⟨u.instrAddr, rfl⟩

theorem loadWord_run {dr : Reg} {ea : Word} (h : loadWord dr ea s = .next t) :
    RunKeptUnlessFails .poll s t := by
  rcases loadWord_cases dr ea s with ⟨v, u, hr, hl⟩ | ⟨u, -, hl⟩ <;> cases hl.symm.trans h
  · have hrun := State.memRead_value_run hr
    exact .inl hrun
  · exact s.pollFailed_runKeptUnlessFails u

theorem execLdi_run {dr : Reg} {off : BitVec 9} (h : exec (.ldi dr off) s = .next t) :
    RunKeptUnlessFails .poll s t := by
  rcases execLdi_cases dr off s with ⟨ea, u, hr, hl⟩ | ⟨u, -, hl⟩
  · exact (loadWord_run (hl.symm.trans h)).of_run_eq (State.memRead_value_run hr)
  · cases hl.symm.trans h
    exact s.pollFailed_runKeptUnlessFails u

theorem execSti_run {sr : Reg} {off : BitVec 9} (h : exec (.sti sr off) s = .next t) :
    RunKeptUnlessFails .poll s t := by
  rcases execSti_cases sr off s with ⟨ea, u, hr, hl⟩ | ⟨u, -, hl⟩ <;> cases hl.symm.trans h
  · have hrun := State.memRead_value_run hr
    exact .inl hrun
  · exact s.pollFailed_runKeptUnlessFails u

theorem getcRead_run (h : getcRead s = .next t) : RunKeptUnlessFails .getc s t := by
  rcases getcRead_cases s with ⟨-, hg⟩ | ⟨k, rest, -, hg⟩ | ⟨rest, -, hg⟩ <;> cases hg.symm.trans h
  · exact .inl rfl
  · exact .inl rfl
  · exact .inr ⟨s.instrAddr, rfl⟩

theorem inRead_run (h : inRead s = .next t) : RunKeptUnlessFails .inSvc s t := by
  rcases inRead_cases s with ⟨-, hg⟩ | ⟨k, rest, -, hg⟩ | ⟨rest, -, hg⟩ <;> cases hg.symm.trans h
  · exact .inl rfl
  · exact .inl rfl
  · exact .inr ⟨s.instrAddr, rfl⟩

theorem StringRun.run {bytesOf : Word → List Byte} {a : Word} (h : StringRun bytesOf a s t) :
    RunKeptUnlessFails .poll s t := by
  induction h with
  | stop hr =>
    have hrun := State.memRead_value_run hr
    exact .inl hrun
  | more hr _ _ ih =>
    have hrun := State.memRead_value_run hr
    exact ih.of_run_eq hrun
  | failed _ hend =>
    obtain ⟨hrun, -⟩ := hend
    exact .inr ⟨_, hrun⟩

theorem StringGoesOn.run {bytesOf : Word → List Byte} {inside : Word → Hold} {n : Nat} {a : Word}
    (h : StringGoesOn bytesOf inside n a s t) : t.run = s.run := by
  induction h with
  | pause => rfl
  | more hr _ _ ih =>
    have hrun := State.memRead_value_run hr
    exact ih.trans hrun

theorem putsLoop_run {bytesOf : Word → List Byte} {inside : Word → Hold} {fuel : Nat} {a : Word}
    (h : putsLoop bytesOf inside fuel a s = .next t) : RunKeptUnlessFails .poll s t := by
  obtain ⟨t', ht, hends | hon⟩ := putsLoop_cases bytesOf inside fuel a s <;> cases ht.symm.trans h
  · exact hends.run
  · exact .inl hon.run

/-! ## Where RUN stands after an instruction -/

/-- An instruction that may go on, and has left RUN alone. -/
theorem mayEndAs_of_run_eq {i : Instr} (hrun : s.run = .running) (hkept : t.run = s.run)
    (hgoesOn : mayEndAs i .running) : mayEndAs i t.run := by
  rw [hkept, hrun]
  exact hgoesOn

/-- An instruction that may go on, and may fail at `site`, has done one or the other. -/
theorem RunKeptUnlessFails.mayEndAs {i : Instr} (h : RunKeptUnlessFails site s t)
    (hrun : s.run = .running) (hgoesOn : mayEndAs i .running)
    (hfails : ∀ addr, mayEndAs i (.deviceError site addr)) : mayEndAs i t.run := by
  rcases h with hkept | ⟨addr, hfailed⟩
  · exact mayEndAs_of_run_eq hrun hkept hgoesOn
  · rw [hfailed]
    exact hfails addr

end Run

/-- Settles O51: the instructions that end the run always, those that read the keyboard, and the rest, which leave
RUN alone. -/
theorem runEndsOnlyByItsCauses : Obligations.RunEndsOnlyByItsCauses := by
  intro i s t hrun h
  cases i
  case rti =>
    cases h
    exact .inl ⟨rfl, rfl⟩
  case res =>
    cases h
    exact .inr ⟨rfl, rfl⟩
  case trapHalt | trap =>
    cases h
    exact rfl
  case ld | ldr => exact (loadWord_run h).mayEndAs hrun (by simp [mayEndAs]) (by simp [mayEndAs])
  case ldi => exact (execLdi_run h).mayEndAs hrun (by simp [mayEndAs]) (by simp [mayEndAs])
  case sti => exact (execSti_run h).mayEndAs hrun (by simp [mayEndAs]) (by simp [mayEndAs])
  case trapGetc =>
    exact (getcRead_run (s := s.trapEntry) h).mayEndAs hrun (by simp [mayEndAs]) (by simp [mayEndAs])
  case trapIn =>
    exact (inRead_run (s := (s.trapEntry.consoleOut Config.inPrompt).consoleFlush) h).mayEndAs hrun
      (by simp [mayEndAs]) (by simp [mayEndAs])
  case trapPuts | trapPutsp =>
    exact (putsLoop_run (s := s.trapEntry) h).mayEndAs hrun (by simp [mayEndAs]) (by simp [mayEndAs])
  case br cond off =>
    cases h
    exact mayEndAs_of_run_eq hrun (by split <;> rfl) (by simp [mayEndAs])
  all_goals
    cases h
    exact mayEndAs_of_run_eq hrun rfl (by simp [mayEndAs])

end Sys2Proof.Machine
end

section
/-! PROOFS. The operate instructions ADD, AND and NOT (spec/41_operate.md R114 to R118). Each match settles the opcode
bits ir[15:12] and, where the row has one, the mode bit ir[5]; each meaning is one `State.writeDest`. -/

namespace Sys2Proof.Machine

/-- `x[dr] <- v; setcc(v)` writes the destination and the flags and nothing else (R107). -/
theorem State.writeDest_writesDest (s : State) (dr : Reg) (v : Word) : WritesDest s (s.writeDest dr v) dr v :=
  ⟨s.writeDest_reg dr v, condOf_eq_flagOf v, rfl, fun _ => rfl, rfl, rfl, rfl, rfl, rfl, rfl⟩

/-- R114's row: opcode x1, mode 0. -/
theorem decode_addReg_of_match {w : Word} (h : w &&& 0xF020#16 = 0x1000#16) :
    decode w = .addReg (regA w) (regB w) (regC w) := by
  rw [decode, slice_of_match h 12 4 (by decide), bit_of_match h 5 (by decide)]
  rfl

/-- R115's row: opcode x1, mode 1. -/
theorem decode_addImm_of_match {w : Word} (h : w &&& 0xF020#16 = 0x1020#16) :
    decode w = .addImm (regA w) (regB w) (w.extractLsb' 0 5) := by
  rw [decode, slice_of_match h 12 4 (by decide), bit_of_match h 5 (by decide)]
  rfl

/-- R116's row: opcode x5, mode 0. -/
theorem decode_andReg_of_match {w : Word} (h : w &&& 0xF020#16 = 0x5000#16) :
    decode w = .andReg (regA w) (regB w) (regC w) := by
  rw [decode, slice_of_match h 12 4 (by decide), bit_of_match h 5 (by decide)]
  rfl

/-- R117's row: opcode x5, mode 1. -/
theorem decode_andImm_of_match {w : Word} (h : w &&& 0xF020#16 = 0x5020#16) :
    decode w = .andImm (regA w) (regB w) (w.extractLsb' 0 5) := by
  rw [decode, slice_of_match h 12 4 (by decide), bit_of_match h 5 (by decide)]
  rfl

/-- R118's row: opcode x9, ir[5:0] not read. -/
theorem decode_not_of_match {w : Word} (h : w &&& 0xF000#16 = 0x9000#16) :
    decode w = .not (regA w) (regB w) := by
  rw [decode, slice_of_match h 12 4 (by decide)]
  rfl

/-- Settles O19: the word's row is opcode x1 with mode 0, and `dr` gets the registers' sum, modulo 2^16 as `Word` adds. -/
theorem addRegister : Obligations.AddRegister :=
  ⟨fun _ h => decode_addReg_of_match h, fun dr _ _ s => ⟨_, rfl, s.writeDest_writesDest dr _⟩⟩

/-- Settles O20: mode 1 of the same opcode, the second operand being the sign-extended `imm5`. -/
theorem addImmediate : Obligations.AddImmediate :=
  ⟨fun _ h => decode_addImm_of_match h, fun dr _ _ s => ⟨_, rfl, s.writeDest_writesDest dr _⟩⟩

/-- Settles O21: the word's row is opcode x5 with mode 0, and `dr` gets the registers' bitwise and. -/
theorem andRegister : Obligations.AndRegister :=
  ⟨fun _ h => decode_andReg_of_match h, fun dr _ _ s => ⟨_, rfl, s.writeDest_writesDest dr _⟩⟩

/-- Settles O22: mode 1 of the same opcode, the second operand being the sign-extended `imm5`. -/
theorem andImmediate : Obligations.AndImmediate :=
  ⟨fun _ h => decode_andImm_of_match h, fun dr _ _ s => ⟨_, rfl, s.writeDest_writesDest dr _⟩⟩

/-- Settles O23: the opcode alone selects the row, and `dr` gets the register's complement. -/
theorem notComplements : Obligations.NotComplements :=
  ⟨fun _ h => decode_not_of_match h, fun dr _ s => ⟨_, rfl, s.writeDest_writesDest dr _⟩⟩

end Sys2Proof.Machine
end

section
/-! PROOFS. The loads LD, LDI, LDR and LEA (spec/42_load.md R119 to R122). LD, LDI and LDR end in one `loadWord`, whose
outcome in each of MemRead's cases is said once; LDI puts a pointer's read before it, and LEA reads nothing. -/

namespace Sys2Proof.Machine

/-! ## The words of the loads -/

/-- R119's row: opcode x2. -/
theorem decode_ld_of_match {w : Word} (h : w &&& 0xF000#16 = 0x2000#16) :
    decode w = .ld (regA w) (w.extractLsb' 0 9) := by
  rw [decode, slice_of_match h 12 4 (by decide)]
  rfl

/-- R120's row: opcode xA. -/
theorem decode_ldi_of_match {w : Word} (h : w &&& 0xF000#16 = 0xA000#16) :
    decode w = .ldi (regA w) (w.extractLsb' 0 9) := by
  rw [decode, slice_of_match h 12 4 (by decide)]
  rfl

/-- R121's row: opcode x6. -/
theorem decode_ldr_of_match {w : Word} (h : w &&& 0xF000#16 = 0x6000#16) :
    decode w = .ldr (regA w) (regB w) (w.extractLsb' 0 6) := by
  rw [decode, slice_of_match h 12 4 (by decide)]
  rfl

/-- R122's row: opcode xE. -/
theorem decode_lea_of_match {w : Word} (h : w &&& 0xF000#16 = 0xE000#16) :
    decode w = .lea (regA w) (w.extractLsb' 0 9) := by
  rw [decode, slice_of_match h 12 4 (by decide)]
  rfl

/-! ## What a load does in each case of its read -/

/-- A poll that fails inside an instruction ends the run and changes nothing else (R56, R148). -/
theorem State.pollFailed_endsRun (u : State) :
    EndsRun u u.pollFailed (.deviceError .poll (u.pc - 1#16)) :=
  ⟨rfl, rfl, fun _ => rfl, rfl, rfl, fun _ => rfl, rfl, rfl, rfl, rfl⟩

theorem loadWord_value {s u : State} {dr : Reg} {ea v : Word} (h : s.memRead ea = .value v u) :
    loadWord dr ea s = .next (u.writeDest dr v) := by
  simp only [loadWord, h]

theorem loadWord_failed {s u : State} {dr : Reg} {ea : Word} (h : s.memRead ea = .failed u) :
    loadWord dr ea s = .next u.pollFailed := by
  simp only [loadWord, h]

/-- The address recorded at a failing poll is that of the instruction, as no MemRead writes pc. -/
theorem State.pollFailed_endsRun_of_memRead {s u : State} {a : Word} (h : s.memRead a = .failed u) :
    EndsRun u u.pollFailed (.deviceError .poll (s.pc - 1#16)) :=
  State.memRead_failed_pc h ▸ u.pollFailed_endsRun

/-- A load in each case of its read: the register and the flags are written after the read's own effect, or the
failing poll ends the run and the register is not written (R56, R155). -/
theorem loadWord_readCases (dr : Reg) (ea : Word) (s : State) :
    ReadCases s ea (fun v u => ∃ t, loadWord dr ea s = .next t ∧ WritesDest u t dr v)
      (fun u => ∃ t, loadWord dr ea s = .next t ∧ EndsRun u t (.deviceError .poll (s.pc - 1#16))) :=
  (kbsrReadPolls s ea).mono
    (fun v u hr => ⟨_, loadWord_value hr, u.writeDest_writesDest dr v⟩)
    (fun _ hr => ⟨_, loadWord_failed hr, State.pollFailed_endsRun_of_memRead hr⟩)

/-- LDI once its pointer is read: the data's load in the state after that read (R120). -/
theorem exec_ldi_value {s u : State} {dr : Reg} {off : BitVec 9} {ea : Word}
    (h : s.memRead (s.pc + sext off) = .value ea u) : exec (.ldi dr off) s = loadWord dr ea u := by
  simp only [exec, execLdi, State.pcRel, h]

/-- LDI whose pointer's read fails reads no data (R120). -/
theorem exec_ldi_failed {s u : State} {dr : Reg} {off : BitVec 9}
    (h : s.memRead (s.pc + sext off) = .failed u) : exec (.ldi dr off) s = .next u.pollFailed := by
  simp only [exec, execLdi, State.pcRel, h]

/-! ## The obligations -/

/-- Settles O24: LD is the load at the PC-relative address. -/
theorem ldLoads : Obligations.LdLoads :=
  ⟨fun _ h => decode_ld_of_match h, fun dr off s => loadWord_readCases dr (s.pc + sext off) s⟩

/-- Settles O25: by the cases of the pointer's read, each followed by the load at the pointer. The second read's
failure records the same address, as the first left pc alone. -/
theorem ldiLoadsIndirect : Obligations.LdiLoadsIndirect := by
  refine ⟨fun _ h => decode_ldi_of_match h, fun dr off s =>
    (kbsrReadPolls s (s.pc + sext off)).mono (fun ea u hr => ?_) (fun u hr => ?_)⟩
  · rw [exec_ldi_value hr, ← State.memRead_value_pc hr]
    exact loadWord_readCases dr ea u
  · exact ⟨_, exec_ldi_failed hr, State.pollFailed_endsRun_of_memRead hr⟩

/-- Settles O26: LDR is the load at the address from the base, read before `dr` is written. -/
theorem ldrLoads : Obligations.LdrLoads :=
  ⟨fun _ h => decode_ldr_of_match h, fun dr base off s => loadWord_readCases dr (s.reg base + sext off) s⟩

/-- Settles O27: LEA is the write of the address itself. -/
theorem leaComputesAddress : Obligations.LeaComputesAddress :=
  ⟨fun _ h => decode_lea_of_match h, fun dr off s => ⟨_, rfl, s.writeDest_writesDest dr (s.pc + sext off)⟩⟩

/-- Settles O31: away from KBSR_ADDR the load's read is plain, and the word it finds is the one just stored. -/
theorem storeThenLoadRoundTrip : Obligations.StoreThenLoadRoundTrip := by
  intro sr dr off off' p s hplain haddr
  have hread : ((s.memWrite (s.pc + sext off) (s.reg sr)).setPc p).memRead (p + sext off') =
      .value (s.reg sr) ((s.memWrite (s.pc + sext off) (s.reg sr)).setPc p) := by
    rw [haddr, State.memRead_of_ne hplain]
    simp
  exact ⟨_, _, rfl, loadWord_value hread, by simp, condOf_eq_flagOf _, rfl⟩

end Sys2Proof.Machine
end

section
/-! PROOFS. The stores ST, STI and STR (spec/43_store.md R123 to R125). Each ends in one MemWrite, which O13 has as a
direct store; STI puts a pointer's read before it, which may poll and leaves the registers alone. -/

namespace Sys2Proof.Machine

/-! ## The words of the stores -/

/-- R123's row: opcode x3. -/
theorem decode_st_of_match {w : Word} (h : w &&& 0xF000#16 = 0x3000#16) :
    decode w = .st (regA w) (w.extractLsb' 0 9) := by
  rw [decode, slice_of_match h 12 4 (by decide)]
  rfl

/-- R124's row: opcode xB. -/
theorem decode_sti_of_match {w : Word} (h : w &&& 0xF000#16 = 0xB000#16) :
    decode w = .sti (regA w) (w.extractLsb' 0 9) := by
  rw [decode, slice_of_match h 12 4 (by decide)]
  rfl

/-- R125's row: opcode x7. -/
theorem decode_str_of_match {w : Word} (h : w &&& 0xF000#16 = 0x7000#16) :
    decode w = .str (regA w) (regB w) (w.extractLsb' 0 6) := by
  rw [decode, slice_of_match h 12 4 (by decide)]
  rfl

/-! ## What STI does in each case of its pointer's read -/

theorem State.memRead_value_reg {s u : State} {a v : Word} (h : s.memRead a = .value v u) (r : Reg) :
    u.reg r = s.reg r := by
  rcases State.memRead_value_frame h with rfl | ⟨⟨hreg, -⟩, -⟩
  · rfl
  · exact hreg r

/-- STI once its pointer is read: the store in the state after that read, of the register's old value, as no MemRead
writes a register (R124). -/
theorem exec_sti_value {s u : State} {sr : Reg} {off : BitVec 9} {ea : Word}
    (h : s.memRead (s.pc + sext off) = .value ea u) :
    exec (.sti sr off) s = .next (u.memWrite ea (s.reg sr)) := by
  simp only [exec, execSti, State.pcRel, h, State.memRead_value_reg h]

/-- STI whose pointer's read fails stores nothing (R124). -/
theorem exec_sti_failed {s u : State} {sr : Reg} {off : BitVec 9}
    (h : s.memRead (s.pc + sext off) = .failed u) : exec (.sti sr off) s = .next u.pollFailed := by
  simp only [exec, execSti, State.pcRel, h]

/-! ## The obligations -/

/-- Settles O28: ST is the direct store at the PC-relative address. -/
theorem stStores : Obligations.StStores :=
  ⟨fun _ h => decode_st_of_match h,
    fun sr off s => ⟨_, rfl, memWriteIsDirectStore s (s.pc + sext off) (s.reg sr)⟩⟩

/-- Settles O29: by the cases of the pointer's read, followed by the direct store at the pointer or, where the poll
failed, by the end of the run. -/
theorem stiStoresIndirect : Obligations.StiStoresIndirect :=
  ⟨fun _ h => decode_sti_of_match h, fun sr off s => (kbsrReadPolls s (s.pc + sext off)).mono
    (fun ea u hr => ⟨_, exec_sti_value hr, memWriteIsDirectStore u ea (s.reg sr)⟩)
    (fun _ hr => ⟨_, exec_sti_failed hr, State.pollFailed_endsRun_of_memRead hr⟩)⟩

/-- Settles O30: STR is the direct store at the address from the base. -/
theorem strStores : Obligations.StrStores :=
  ⟨fun _ h => decode_str_of_match h,
    fun sr base off s => ⟨_, rfl, memWriteIsDirectStore s (s.reg base + sext off) (s.reg sr)⟩⟩

end Sys2Proof.Machine
end

section
/-! PROOFS. The control transfers BR, JMP, JSR and JSRR (spec/44_control.md R126 to R129). Each is at most one
`State.setPc`, which JSR and JSRR put after the write of the link; none updates COND. -/

namespace Sys2Proof.Machine

/-! ## The words of the control transfers -/

/-- R126's row: opcode x0. -/
theorem decode_br_of_match {w : Word} (h : w &&& 0xF000#16 = 0x0000#16) :
    decode w = .br (w.extractLsb' 9 3) (w.extractLsb' 0 9) := by
  rw [decode, slice_of_match h 12 4 (by decide)]
  rfl

/-- R127's row: opcode xC. -/
theorem decode_jmp_of_match {w : Word} (h : w &&& 0xF000#16 = 0xC000#16) :
    decode w = .jmp (regB w) := by
  rw [decode, slice_of_match h 12 4 (by decide)]
  rfl

/-- R128's row: opcode x4, mode 1. -/
theorem decode_jsr_of_match {w : Word} (h : w &&& 0xF800#16 = 0x4800#16) :
    decode w = .jsr (w.extractLsb' 0 11) := by
  rw [decode, slice_of_match h 12 4 (by decide), bit_of_match h 11 (by decide)]
  rfl

/-- R129's row: opcode x4, mode 0. -/
theorem decode_jsrr_of_match {w : Word} (h : w &&& 0xF800#16 = 0x4000#16) :
    decode w = .jsrr (regB w) := by
  rw [decode, slice_of_match h 12 4 (by decide), bit_of_match h 11 (by decide)]
  rfl

/-! ## What a control transfer writes -/

theorem State.setPc_writesPc (s : State) (target : Word) : WritesPc s (s.setPc target) target :=
  ⟨rfl, fun _ => rfl, rfl, fun _ => rfl, rfl, rfl, rfl, rfl, rfl, rfl⟩

theorem State.linkPc_setPc_linksAndJumps (s : State) (target : Word) :
    LinksAndJumps s (s.linkPc.setPc target) s.pc target :=
  ⟨s.linkPc_reg, rfl, rfl, fun _ => rfl, rfl, rfl, rfl, rfl, rfl, rfl⟩

/-! ## When BR is taken -/

/-- A cond bit meets the flag (R30, R126). -/
theorem exec_br_taken {cond : BitVec 3} {s : State} (h : cond &&& s.cond ≠ 0#3) (off : BitVec 9) :
    exec (.br cond off) s = .next (s.setPc (s.pc + sext off)) :=
  congrArg Host.Outcome.next (if_pos (bne_iff_ne.mpr h))

/-- No cond bit meets the flag (R30, R126). -/
theorem exec_br_untaken {cond : BitVec 3} {s : State} (h : cond &&& s.cond = 0#3) (off : BitVec 9) :
    exec (.br cond off) s = .next s :=
  congrArg Host.Outcome.next (if_neg (by simp [State.condMet, h]))

/-- Some flag of a legal COND is set, and cond 111 meets them all (R29). -/
theorem State.allBits_meet_cond {s : State} (h : s.condOneHot) : 0b111#3 &&& s.cond ≠ 0#3 := by
  rcases h with h | h | h <;> rw [h] <;> decide

/-! ## The obligations -/

/-- Settles O33: by whether a cond bit meets COND, which cond 000 never does and cond 111 does in a legal state. -/
theorem brBranches : Obligations.BrBranches :=
  ⟨fun _ h => decode_br_of_match h,
    fun _ off s h => ⟨_, exec_br_taken h off, s.setPc_writesPc (s.pc + sext off)⟩,
    fun _ off _ h => exec_br_untaken h off,
    fun off _ => exec_br_untaken BitVec.zero_and off,
    fun off s h => ⟨_, exec_br_taken (State.allBits_meet_cond h) off, s.setPc_writesPc (s.pc + sext off)⟩⟩

/-- Settles O34: JMP is the write of pc from the base. -/
theorem jmpJumps : Obligations.JmpJumps :=
  ⟨fun _ h => decode_jmp_of_match h, fun base s => ⟨_, rfl, s.setPc_writesPc (s.reg base)⟩⟩

/-- Settles O35: the target is relative to the pc that was linked, which the link's write leaves alone. -/
theorem jsrLinksAndJumps : Obligations.JsrLinksAndJumps :=
  ⟨fun _ h => decode_jsr_of_match h,
    fun off s => ⟨_, rfl, s.linkPc_setPc_linksAndJumps (s.pc + sext off)⟩⟩

/-- Settles O36: the base is read after the link write, so base R7 reads the link itself. -/
theorem jsrrLinksThenReadsBase : Obligations.JsrrLinksThenReadsBase :=
  ⟨fun _ h => decode_jsrr_of_match h,
    fun base s => ⟨_, rfl, s.linkPc_reg base ▸ s.linkPc_setPc_linksAndJumps (s.linkPc.reg base)⟩⟩

end Sys2Proof.Machine
end

section
/-! PROOFS. TRAP's words and the services that are no string (spec/45_trap.md R131 to R135, R137, R139, R140): each
begins with TRAP's entry. GETC and IN end in one ReadKey, which a held engine tries again (spec/60_exceptions.md R167),
so what that read does is said once for TRAP and for the held engine. -/

namespace Sys2Proof.Machine

/-! ## The words of TRAP -/

/-- The words of an instruction are those that differ from the encoder's in its ignored bits alone (R94). -/
theorem decode_of_encode_eq {w : Word} {i : Instr} (hwf : WellFormed i = true)
    (h : w &&& ~~~ ignoredBits i = encode i) : decode w = i :=
  IsWordOf.decode_eq ⟨hwf, h.symm⟩

/-- Opcode xF: TRAP, by its vector (R131). -/
theorem decode_trap_of_match {w : Word} (h : w &&& 0xF000#16 = 0xF000#16) :
    decode w = decodeTrap (w.extractLsb' 0 8) := by
  rw [decode, slice_of_match h 12 4 (by decide)]
  rfl

/-- The six services' vectors are x20 to x25 (R132). -/
theorem serviceVectors_range : ∀ v ∈ serviceVectors, 0x20 ≤ v.toNat ∧ v.toNat ≤ 0x25 := by
  decide

/-- A vector of no service is TRAP's last row (R140). -/
theorem decodeTrap_of_out_of_range {v : Byte} (h : v.toNat < 0x20 ∨ 0x25 < v.toNat) :
    decodeTrap v = .trap v := by
  have hnot : v ∉ serviceVectors := fun hv => by
    have := serviceVectors_range v hv
    omega
  exact decodeTrap_of_wellFormed (by simpa [WellFormed, isServiceVector] using hnot)

/-! ## TRAP's entry, and a terminal event after it -/

/-- TRAP's entry writes R7, and the console bytes after it are all a service like OUT adds (R131). -/
theorem State.trapEntry_consoleOut_trapWrites (s : State) (bs : List Byte) :
    TrapWritesOut s (s.trapEntry.consoleOut bs) bs :=
  ⟨s.trapEntry_reg, rfl, rfl, fun _ => rfl, rfl, rfl, rfl, rfl, rfl, rfl⟩

theorem State.trapEntry_trapWrites (s : State) : TrapWritesOut s s.trapEntry [] :=
  ⟨s.trapEntry_reg, rfl, rfl, fun _ => rfl, rfl, rfl, rfl, (List.append_nil _).symm, rfl, rfl⟩

theorem State.trapEntry_prompts (s : State) :
    Prompts s (s.trapEntry.consoleOut Config.inPrompt).consoleFlush :=
  ⟨s.trapEntry_reg, rfl, rfl, fun _ => rfl, rfl, rfl, rfl, rfl, rfl, rfl⟩

theorem State.endRun_endsRun (s : State) (r : RunState) : EndsRun s (s.endRun r) r :=
  ⟨rfl, rfl, fun _ => rfl, rfl, rfl, fun _ => rfl, rfl, rfl, rfl, rfl⟩

theorem State.setHold_comesToHold (s : State) (h : Hold) : ComesToHold s (s.setHold (some h)) h :=
  ⟨rfl, fun _ => rfl, rfl, rfl, fun _ => rfl, rfl, rfl, rfl, rfl, rfl⟩

theorem State.setKeyboard_eventTaken (s : State) (rest : Keyboard) :
    EventTaken s (s.setKeyboard rest) rest :=
  ⟨rfl, fun _ => rfl, rfl, rfl, fun _ => rfl, rfl, rfl, rfl, rfl, rfl⟩

/-! ## The reads of GETC and IN, by the input's next event -/

section Reads

variable {s : State} {k : Byte} {rest : Keyboard}

theorem getcRead_key (hn : s.keyboard.next = some (.key k, rest)) :
    ∃ t, getcRead s = .next t ∧ GetcTakes s t k rest := by
  rcases getcRead_cases s with ⟨hn', -⟩ | ⟨_, _, hn', hg⟩ | ⟨_, hn', -⟩ <;> cases hn.symm.trans hn'
  exact ⟨_, hg, (s.setKeyboard rest).setReg_reg .r0 (zext k), rfl, rfl, fun _ => rfl, rfl, rfl, rfl, rfl,
    rfl, rfl⟩

theorem getcRead_failure (hn : s.keyboard.next = some (.failure, rest)) :
    ∃ u t, EventTaken s u rest ∧ getcRead s = .next t ∧
      EndsRun u t (.deviceError .getc (s.pc - 1#16)) := by
  rcases getcRead_cases s with ⟨hn', -⟩ | ⟨_, _, hn', -⟩ | ⟨_, hn', hg⟩ <;> cases hn.symm.trans hn'
  exact ⟨_, _, s.setKeyboard_eventTaken rest, hg, State.endRun_endsRun _ _⟩

theorem getcRead_waits (hn : s.keyboard.next = none) :
    ∃ t, getcRead s = .next t ∧ ComesToHold s t .getc := by
  rcases getcRead_cases s with ⟨-, hg⟩ | ⟨_, _, hn', -⟩ | ⟨_, hn', -⟩
  · exact ⟨_, hg, s.setHold_comesToHold .getc⟩
  all_goals cases hn.symm.trans hn'

theorem inRead_key (hn : s.keyboard.next = some (.key k, rest)) :
    ∃ t, inRead s = .next t ∧ InTakes s t k rest := by
  rcases inRead_cases s with ⟨hn', -⟩ | ⟨_, _, hn', hg⟩ | ⟨_, hn', -⟩ <;> cases hn.symm.trans hn'
  exact ⟨_, hg, ((s.setKeyboard rest).consoleOut [k]).writeDest_reg .r0 (zext k), condOf_eq_flagOf _, rfl,
    fun _ => rfl, rfl, rfl, rfl, rfl, rfl, rfl⟩

theorem inRead_failure (hn : s.keyboard.next = some (.failure, rest)) :
    ∃ u t, EventTaken s u rest ∧ inRead s = .next t ∧
      EndsRun u t (.deviceError .inSvc (s.pc - 1#16)) := by
  rcases inRead_cases s with ⟨hn', -⟩ | ⟨_, _, hn', -⟩ | ⟨_, hn', hg⟩ <;> cases hn.symm.trans hn'
  exact ⟨_, _, s.setKeyboard_eventTaken rest, hg, State.endRun_endsRun _ _⟩

theorem inRead_waits (hn : s.keyboard.next = none) :
    ∃ t, inRead s = .next t ∧ ComesToHold s t .inSvc := by
  rcases inRead_cases s with ⟨-, hg⟩ | ⟨_, _, hn', -⟩ | ⟨_, hn', -⟩
  · exact ⟨_, hg, s.setHold_comesToHold .inSvc⟩
  all_goals cases hn.symm.trans hn'

end Reads

/-! ## A held engine, and the input it waits for -/

/-- A step of an engine inside a service goes on with that service (R167). -/
theorem step_of_hold {s : State} {h : Hold} (hrun : s.run = .running) (hsig : s.signalAt ≠ some 0)
    (hhold : s.hold = some h) : step s = resume h s.tick := by
  rw [step_of_running hrun hsig, turn, State.tick_hold, hhold]

/-- An input without a next event has listed none, and none follows (R165). -/
theorem Keyboard.next_eq_none {k : Keyboard} (h : k.next = none) : k.events = [] ∧ k.further = .ends := by
  rcases k with ⟨_ | _, _ | _ | _, _, _⟩ <;> cases h
  exact ⟨rfl, rfl⟩

/-- The event the host supplies to an input that has none is its next (R165, R167). -/
theorem State.supplyEvent_next {s : State} (e : KeyEvent) (h : s.keyboard.next = none) :
    (s.supplyEvent e).keyboard.next = some (e, s.keyboard) := by
  obtain ⟨hevents, -⟩ := Keyboard.next_eq_none h
  simp only [State.supplyEvent_keyboard, hevents, List.nil_append, Keyboard.next]
  rw [← hevents]

/-- Settles O10: the step is the service's read in `s.tick`, whose cases are those of a TRAP's read. -/
theorem heldServiceResumes : Obligations.HeldServiceResumes := by
  refine ⟨fun s rest hrun hsig => ⟨fun k hhold hn => ?_, fun k hhold hn => ?_, fun hhold hn => ?_,
    fun hhold hn => ?_⟩, fun _ e h => State.supplyEvent_next e h⟩ <;> rw [step_of_hold hrun hsig hhold]
  · exact getcRead_key (s := s.tick) hn
  · exact inRead_key (s := s.tick) hn
  · exact getcRead_failure (s := s.tick) hn
  · exact inRead_failure (s := s.tick) hn

/-! ## The services -/

/-- Settles O37: GETC is its read after TRAP's entry, by the next event. -/
theorem getcReadsKey : Obligations.GetcReadsKey := by
  refine ⟨fun _ h => decode_of_encode_eq rfl h, fun s k rest hn => ?_, fun s rest hn => ?_,
    fun s hn => ?_⟩
  · obtain ⟨t, ht, htakes⟩ := getcRead_key (s := s.trapEntry) hn
    exact ⟨_, t, s.trapEntry_trapWrites, ht, htakes⟩
  · obtain ⟨u, t, htaken, ht, hends⟩ := getcRead_failure (s := s.trapEntry) hn
    exact ⟨_, u, t, s.trapEntry_trapWrites, htaken, ht, hends⟩
  · obtain ⟨t, ht, hholds⟩ := getcRead_waits (s := s.trapEntry) hn
    exact ⟨_, t, s.trapEntry_trapWrites, ht, hholds⟩

/-- Settles O38: TRAP's entry leaves R0 to OUT, which writes its low byte. -/
theorem outWritesByte : Obligations.OutWritesByte :=
  ⟨fun _ h => decode_of_encode_eq rfl h, fun s => ⟨_, rfl, s.trapEntry_consoleOut_trapWrites _⟩⟩

/-- Settles O40: IN is its read after the prompt and the flush, by the next event. -/
theorem inPromptsAndReadsKey : Obligations.InPromptsAndReadsKey := by
  refine ⟨fun _ h => decode_of_encode_eq rfl h, fun s k rest hn => ?_, fun s rest hn => ?_,
    fun s hn => ?_⟩
  · obtain ⟨t, ht, htakes⟩ := inRead_key (s := (s.trapEntry.consoleOut Config.inPrompt).consoleFlush) hn
    exact ⟨_, t, s.trapEntry_prompts, ht, htakes⟩
  · obtain ⟨u, t, htaken, ht, hends⟩ :=
      inRead_failure (s := (s.trapEntry.consoleOut Config.inPrompt).consoleFlush) hn
    exact ⟨_, u, t, s.trapEntry_prompts, htaken, ht, hends⟩
  · obtain ⟨t, ht, hholds⟩ := inRead_waits (s := (s.trapEntry.consoleOut Config.inPrompt).consoleFlush) hn
    exact ⟨_, t, s.trapEntry_prompts, ht, hholds⟩

/-- Settles O43: HALT is TRAP's entry, a flush and the terminal event, none of which writes the console. -/
theorem haltEndsTheRun : Obligations.HaltEndsTheRun :=
  ⟨fun _ h => decode_of_encode_eq rfl h, fun s =>
    ⟨_, rfl, rfl, rfl, s.trapEntry_reg, rfl, rfl, fun _ => rfl, rfl, rfl, rfl, rfl⟩⟩

/-- Settles O44: the vector is none of the six, and the fault is raised after TRAP's entry. -/
theorem unknownVectorFaults : Obligations.UnknownVectorFaults :=
  ⟨fun _ h hv => (decode_trap_of_match h).trans (decodeTrap_of_out_of_range hv),
    fun _ s _ => ⟨_, _, s.trapEntry_trapWrites, rfl, s.trapEntry.endRun_endsRun _⟩⟩

end Sys2Proof.Machine
end

section
/-! PROOFS. The string services PUTS and PUTSP (spec/45_trap.md R136, R138), once for both: they are one loop, told
apart by the bytes of a word. A lap of an endless string is a run of plain reads up to KBSR_ADDR, the poll there, and a
run of plain reads back to the pointer. -/

namespace Sys2Proof.Machine

section Loop

variable {bytesOf : Word → List Byte} {inside : Word → Hold} {n : Nat} {a w : Word} {s u : State} {k : Byte}

/-! ## One iteration -/

theorem putsLoop_zero : putsLoop bytesOf inside 0 a s = .next (s.setHold (some (inside a))) := rfl

theorem putsLoop_end (hr : s.memRead a = .value 0#16 u) :
    putsLoop bytesOf inside (n + 1) a s = .next (u.setHold none) := by
  simp only [putsLoop, hr, if_true]

theorem putsLoop_more (hr : s.memRead a = .value w u) (hw : w ≠ 0#16) :
    putsLoop bytesOf inside (n + 1) a s =
      putsLoop bytesOf inside n (a + 1#16) (u.consoleOut (bytesOf w)) := by
  simp only [putsLoop, hr, if_neg hw]

theorem State.consoleOut_nil (s : State) : s.consoleOut [] = s := by
  rw [State.consoleOut, List.append_nil]

theorem State.consoleOut_consoleOut (s : State) (bs cs : List Byte) :
    (s.consoleOut bs).consoleOut cs = s.consoleOut (bs ++ cs) := by
  simp only [State.consoleOut, List.append_assoc]

/-! ## One step -/

theorem State.lap_le_stringFuel (s : State) : 65536 ≤ s.stringFuel :=
  Nat.le_mul_of_pos_right _ (Nat.succ_pos _)

/-- A step of the loop ends it, or has read a lap at least (log 15). -/
theorem putsLoop_turn (bytesOf : Word → List Byte) (inside : Word → Hold) (a : Word) (s : State) :
    ∃ t, putsLoop bytesOf inside s.stringFuel a s = .next t ∧ StringTurn bytesOf inside a s t := by
  obtain ⟨t, ht, hturn⟩ := putsLoop_cases bytesOf inside s.stringFuel a s
  exact ⟨t, ht, hturn.imp_right fun hon => ⟨_, s.lap_le_stringFuel, hon⟩⟩

/-- Where the input ends with the listed events, a step ends the loop. -/
theorem putsLoop_ends (bytesOf : Word → List Byte) (inside : Word → Hold) (a : Word)
    (hs : s.keyboard.further = .ends) :
    ∃ t, putsLoop bytesOf inside s.stringFuel a s = .next t ∧ StringRun bytesOf a s t := by
  obtain ⟨t, ht, hturn⟩ := putsLoop_cases bytesOf inside s.stringFuel a s
  exact ⟨t, ht, hturn.resolve_right (StringGoesOn.not_of_ends hs)⟩

/-! ## An ordinary string -/

/-- A string that avoids KBSR_ADDR is shorter than the way to it, so it ends within a lap. -/
theorem HoldsString.length_lt {m : Memory} {ws : List Word} (h : HoldsString m a ws) :
    ws.length < (Config.kbsrAddr - a).toNat := by
  induction ws generalizing a with
  | nil =>
    obtain ⟨ha, -⟩ := h
    have := distance_to_kbsr a ha
    rw [List.length_nil]
    omega
  | cons w ws ih =>
    obtain ⟨ha, -, -, hrest⟩ := h
    have := distance_to_kbsr a ha
    have := ih hrest
    rw [List.length_cons]
    omega

/-- The loop writes the bytes of the string's words in order and ends. -/
theorem putsLoop_of_holdsString {ws : List Word} (h : HoldsString s.mem a ws) (hn : ws.length < n) :
    putsLoop bytesOf inside n a s = .next ((s.consoleOut (bytesOfWords bytesOf ws)).setHold none) := by
  induction ws generalizing n a s with
  | nil =>
    obtain ⟨n, rfl⟩ := Nat.exists_eq_add_one_of_ne_zero (Nat.ne_zero_of_lt hn)
    obtain ⟨ha, hzero⟩ := h
    rw [putsLoop_end ((State.memRead_of_ne ha).trans (by rw [hzero])), bytesOfWords, State.consoleOut_nil]
  | cons w ws ih =>
    obtain ⟨n, rfl⟩ := Nat.exists_eq_add_one_of_ne_zero (Nat.ne_zero_of_lt hn)
    obtain ⟨ha, hread, hw, hrest⟩ := h
    rw [putsLoop_more ((State.memRead_of_ne ha).trans (by rw [hread])) hw,
      ih (s := s.consoleOut (bytesOf w)) hrest (Nat.lt_of_succ_lt_succ hn), State.consoleOut_consoleOut,
      bytesOfWords]

/-! ## A lap of an endless string -/

/-- As long as the pointer does not pass KBSR_ADDR, the loop reads words that are not x0000 and goes on. -/
theorem putsLoop_plain (hs : ∀ b : Word, b ≠ Config.kbsrAddr → s.mem.read b ≠ 0#16) {d : Nat}
    (hd : d ≤ (Config.kbsrAddr - a).toNat) (n : Nat) :
    ∃ out, putsLoop bytesOf inside (d + n) a s =
      putsLoop bytesOf inside n (a + BitVec.ofNat 16 d) (s.consoleOut out) := by
  induction d generalizing a s with
  | zero => exact ⟨[], by rw [State.consoleOut_nil, Nat.zero_add, BitVec.add_zero]⟩
  | succ d ih =>
    have ha : a ≠ Config.kbsrAddr := by
      rintro rfl
      simp at hd
    have hdist := distance_to_kbsr a ha
    obtain ⟨out, hout⟩ := ih (a := a + 1#16) (s := s.consoleOut (bytesOf (s.mem.read a))) hs (by omega)
    refine ⟨bytesOf (s.mem.read a) ++ out, ?_⟩
    rw [Nat.add_right_comm, putsLoop_more (State.memRead_of_ne ha) (hs a ha), hout,
      State.consoleOut_consoleOut, BitVec.add_assoc, BitVec.ofNat_add, BitVec.add_comm (BitVec.ofNat 16 d)]

/-- A step of an endless string comes to its poll, with the rest of one lap left to read. -/
theorem EndlessString.putsLoop_to_kbsr (h : EndlessString s k) (bytesOf : Word → List Byte)
    (inside : Word → Hold) (a : Word) :
    ∃ n out, (Config.kbsrAddr - a).toNat + (n + 1) = 65536 ∧
      putsLoop bytesOf inside s.stringFuel a s =
        putsLoop bytesOf inside (n + 1) Config.kbsrAddr (s.consoleOut out) := by
  obtain ⟨hwords, hevents, -, -⟩ := h
  have hlap : (Config.kbsrAddr - a).toNat + (65535 - (Config.kbsrAddr - a).toNat + 1) = 65536 := by
    have := (Config.kbsrAddr - a).isLt
    omega
  have hfuel : s.stringFuel = 65536 := by rw [State.stringFuel, hevents, List.length_nil]
  obtain ⟨out, hout⟩ := putsLoop_plain (bytesOf := bytesOf) (inside := inside) hwords
    (Nat.le_refl (Config.kbsrAddr - a).toNat) (65535 - (Config.kbsrAddr - a).toNat + 1)
  rw [hlap, BitVec.ofNat_toNat, BitVec.setWidth_eq, add_sub_cancel] at hout
  exact ⟨_, out, hlap, by rw [hfuel, hout]⟩

/-- The rest of the lap after the poll leads back to the pointer, modulo 2^16. -/
theorem pointer_after_lap (h : (Config.kbsrAddr - a).toNat + (n + 1) = 65536) :
    Config.kbsrAddr + 1#16 + BitVec.ofNat 16 n = a := by
  have := a.isLt
  apply BitVec.eq_of_toNat_eq
  simp only [Config.kbsrAddr, BitVec.toNat_sub, BitVec.toNat_add, BitVec.toNat_ofNat] at h ⊢
  omega

theorem EndlessString.next (h : EndlessString s k) : s.keyboard.next = some (.key k, s.keyboard) := by
  obtain ⟨-, hevents, hfurther, -⟩ := h
  simp only [Keyboard.next, hevents, hfurther]

/-- A poll that finds the key stores x8000 and a nonzero key, and takes nothing from the endless input. -/
theorem EndlessString.of_pollKey (h : EndlessString s k) (hp : PollKey s u k s.keyboard) :
    EndlessString u k := by
  obtain ⟨hwords, hevents, hfurther, hk⟩ := h
  obtain ⟨-, ⟨hevents', hfurther', -, -⟩, hmem⟩ := hp
  refine ⟨fun b hb => ?_, hevents'.trans hevents, hfurther'.trans hfurther, hk⟩
  have hzext : zext k ≠ 0#16 := fun h0 => hk (BitVec.eq_of_toNat_eq (by rw [← toNat_zext, h0]; rfl))
  rw [hmem, if_neg hb]
  split
  · exact hzext
  · exact hwords b hb

/-- The poll finds the key: the loop reads the rest of the lap and is back at its pointer. -/
theorem EndlessString.putsLoop_lap (h : EndlessString s k) (hk : s.keyAvailable = true)
    (bytesOf : Word → List Byte) (inside : Word → Hold) (a : Word) :
    ∃ t, putsLoop bytesOf inside s.stringFuel a s = .next t ∧ LapWritten s t k (inside a) := by
  obtain ⟨n, out, hn, hloop⟩ := h.putsLoop_to_kbsr bytesOf inside a
  obtain ⟨-, -, hkey, -⟩ := kbsrReadPolls (s.consoleOut out) Config.kbsrAddr
  obtain ⟨u, hu, hr⟩ := hkey k s.keyboard rfl hk h.next
  have hend : EndlessString u k := EndlessString.of_pollKey (s := s.consoleOut out) h hu
  have ⟨hwords, _⟩ := hend
  have hrange : n ≤ (Config.kbsrAddr - (Config.kbsrAddr + 1#16)).toNat := by
    have : (Config.kbsrAddr - (Config.kbsrAddr + 1#16)).toNat = 65535 := by decide
    omega
  obtain ⟨out', hrest⟩ := putsLoop_plain (bytesOf := bytesOf) (inside := inside)
    (s := u.consoleOut (bytesOf 0x8000#16)) hwords hrange 0
  rw [pointer_after_lap hn, Nat.add_zero, putsLoop_zero] at hrest
  obtain ⟨⟨hregs, hcond, hpc, hrun, -⟩, ⟨-, -, hanswers, hpolls⟩, -⟩ := hu
  exact ⟨_, hloop.trans ((putsLoop_more hr (by decide)).trans hrest),
    rfl, hrun, hend, hpc, hregs, hcond, hpolls, hanswers⟩

/-- The poll finds no key: it reads x0000, which ends the string. -/
theorem EndlessString.putsLoop_idle (h : EndlessString s k) (hk : s.keyAvailable = false)
    (bytesOf : Word → List Byte) (inside : Word → Hold) (a : Word) :
    ∃ t, putsLoop bytesOf inside s.stringFuel a s = .next t ∧ t.hold = none ∧ t.run = s.run := by
  obtain ⟨n, out, -, hloop⟩ := h.putsLoop_to_kbsr bytesOf inside a
  obtain ⟨-, hidle, -, -⟩ := kbsrReadPolls (s.consoleOut out) Config.kbsrAddr
  obtain ⟨u, ⟨⟨-, -, -, hrun, -⟩, -⟩, hr⟩ := hidle rfl hk
  exact ⟨_, hloop.trans (putsLoop_end hr), rfl, hrun⟩

end Loop

/-! ## What PUTS and PUTSP have in common -/

/-- `i` is a string service: its TRAP enters the loop of `bytesOf` at R0 (R131), and the engine that is inside the
service at a pointer goes on with the loop from there. -/
structure IsStringService (i : Instr) (bytesOf : Word → List Byte) (inside : Word → Hold) : Prop where
  exec_eq : ∀ s : State, exec i s =
    putsLoop bytesOf inside s.trapEntry.stringFuel (s.reg .r0) s.trapEntry
  resume_eq : ∀ (a : Word) (s : State), resume (inside a) s = putsLoop bytesOf inside s.stringFuel a s

theorem puts_isStringService : IsStringService .trapPuts (fun w => [w.extractLsb' 0 8]) .puts :=
  ⟨fun _ => rfl, fun _ _ => rfl⟩

theorem putsp_isStringService : IsStringService .trapPutsp packedBytes .putsp :=
  ⟨fun _ => rfl, fun _ _ => rfl⟩

namespace IsStringService

variable {i : Instr} {bytesOf : Word → List Byte} {inside : Word → Hold} {s : State} {k : Byte} {a : Word}

theorem exec_turn (hi : IsStringService i bytesOf inside) (s : State) : ∃ e t, TrapWritesOut s e [] ∧
    exec i s = .next t ∧ StringTurn bytesOf inside (s.reg .r0) e t := by
  obtain ⟨t, ht, hturn⟩ := putsLoop_turn bytesOf inside (s.reg .r0) s.trapEntry
  exact ⟨_, t, s.trapEntry_trapWrites, (hi.exec_eq s).trans ht, hturn⟩

theorem exec_ends (hi : IsStringService i bytesOf inside) (hs : s.keyboard.further = .ends) :
    ∃ e t, TrapWritesOut s e [] ∧ exec i s = .next t ∧ StringRun bytesOf (s.reg .r0) e t := by
  obtain ⟨t, ht, hends⟩ := putsLoop_ends (s := s.trapEntry) bytesOf inside (s.reg .r0) hs
  exact ⟨_, t, s.trapEntry_trapWrites, (hi.exec_eq s).trans ht, hends⟩

theorem exec_endless (hi : IsStringService i bytesOf inside) (hs : EndlessString s k) :
    (s.keyAvailable = true → ∃ e t, TrapWritesOut s e [] ∧ exec i s = .next t ∧
      LapWritten e t k (inside (s.reg .r0))) ∧
    (s.keyAvailable = false → ∃ t, exec i s = .next t ∧ t.hold = none ∧ t.run = s.run) := by
  have hentry : EndlessString s.trapEntry k := hs
  rw [hi.exec_eq]
  refine ⟨fun hk => ?_, fun hk => hentry.putsLoop_idle hk bytesOf inside (s.reg .r0)⟩
  obtain ⟨t, ht, hlap⟩ := hentry.putsLoop_lap hk bytesOf inside (s.reg .r0)
  exact ⟨_, t, s.trapEntry_trapWrites, ht, hlap⟩

theorem exec_writes (hi : IsStringService i bytesOf inside) {ws : List Word}
    (h : HoldsString s.mem (s.reg .r0) ws) :
    ∃ t, exec i s = .next t ∧ TrapWrites s t (bytesOfWords bytesOf ws) none := by
  have hfuel : ws.length < s.trapEntry.stringFuel :=
    h.length_lt.trans ((BitVec.isLt _).trans_le s.trapEntry.lap_le_stringFuel)
  refine ⟨_, (hi.exec_eq s).trans (putsLoop_of_holdsString h hfuel), ?_⟩
  exact ⟨s.trapEntry_reg, rfl, rfl, fun _ => rfl, rfl, rfl, rfl, rfl, rfl, rfl⟩

/-- The step of an engine inside the service. -/
theorem step_eq (hi : IsStringService i bytesOf inside) (hrun : s.run = .running)
    (hhold : s.hold = some (inside a)) (hsig : s.signalAt ≠ some 0) :
    step s = putsLoop bytesOf inside s.tick.stringFuel a s.tick :=
  (step_of_hold hrun hsig hhold).trans (hi.resume_eq a s.tick)

theorem step_turn (hi : IsStringService i bytesOf inside) (hrun : s.run = .running)
    (hhold : s.hold = some (inside a)) (hsig : s.signalAt ≠ some 0) :
    ∃ t, step s = .next t ∧ StringTurn bytesOf inside a s.tick t := by
  rw [hi.step_eq hrun hhold hsig]
  exact putsLoop_turn bytesOf inside a s.tick

theorem step_endless (hi : IsStringService i bytesOf inside) (hs : EndlessString s k)
    (hrun : s.run = .running) (hhold : s.hold = some (inside a)) (hsig : s.signalAt ≠ some 0) :
    (s.keyAvailable = true → ∃ t, step s = .next t ∧ LapWritten s t k (inside a)) ∧
    (s.keyAvailable = false → ∃ t, step s = .next t ∧ t.hold = none ∧ t.run = .running) := by
  have htick : EndlessString s.tick k := hs
  rw [hi.step_eq hrun hhold hsig, ← hrun]
  exact ⟨fun hk => htick.putsLoop_lap hk bytesOf inside a,
    fun hk => htick.putsLoop_idle hk bytesOf inside a⟩

end IsStringService

/-! ## The obligations -/

/-- Settles O39: PUTS is the string service of a word's low byte. -/
theorem putsRunsItsLoop : Obligations.PutsRunsItsLoop :=
  ⟨fun _ h => decode_of_encode_eq rfl h, puts_isStringService.exec_turn,
    fun _ _ hrun hhold hsig => puts_isStringService.step_turn hrun hhold hsig,
    fun _ hs => puts_isStringService.exec_ends hs,
    fun _ _ hs => puts_isStringService.exec_endless hs,
    fun _ _ _ hs hrun hhold hsig => puts_isStringService.step_endless hs hrun hhold hsig⟩

/-- Settles O41: PUTSP is the string service of a word's packed bytes. -/
theorem putspRunsItsLoop : Obligations.PutspRunsItsLoop :=
  ⟨fun _ h => decode_of_encode_eq rfl h, putsp_isStringService.exec_turn,
    fun _ _ hrun hhold hsig => putsp_isStringService.step_turn hrun hhold hsig,
    fun _ hs => putsp_isStringService.exec_ends hs,
    fun _ _ hs => putsp_isStringService.exec_endless hs,
    fun _ _ _ hs hrun hhold hsig => putsp_isStringService.step_endless hs hrun hhold hsig⟩

/-- Settles O42: a string that avoids KBSR_ADDR ends within the TRAP's own step. -/
theorem stringServicesWriteStrings : Obligations.StringServicesWriteStrings :=
  fun _ _ h => ⟨puts_isStringService.exec_writes h, putsp_isStringService.exec_writes h⟩

end Sys2Proof.Machine
end

section
/-! PROOFS. The console (spec/45_trap.md R142, spec/60_exceptions.md R166): the only update that writes it appends. -/

namespace Sys2Proof.Machine

section Console

variable {i : Instr} {s t u : State}

theorem Updates.console_grows (h : Updates i s u) : s.console <+: u.console := by
  induction h with
  | refl => exact ⟨[], List.append_nil _⟩
  | consoleOut bs _ ih => exact ih.trans ⟨bs, rfl⟩
  | _ => assumption

theorem Does.console_grows (h : Does i s t) : s.console <+: t.console := by
  cases h with
  | goesOn hu | setsFlags _ hu _ | endsRun _ hu => exact hu.console_grows

theorem fetchExec_console_grows (h : fetchExec s = .next t) : s.console <+: t.console := by
  cases hr : s.memRead s.pc with
  | value ir u =>
    have hu : Updates (decode ir) s u := Updates.refl.memRead_value hr
    exact hu.console_grows.trans (exec_does ((fetchExec_value hr).symm.trans h)).console_grows
  | failed u =>
    cases (fetchExec_failed hr).symm.trans h
    obtain ⟨rest, -, -, -, rfl⟩ := State.memRead_failed hr
    exact ⟨[], List.append_nil _⟩

theorem turn_console_grows (h : turn s = .next t) : s.console <+: t.console := by
  unfold turn at h
  split at h
  · exact (resume_does h).console_grows
  · exact fetchExec_console_grows h

end Console

/-- Settles O53: the signal writes no byte, and a turn of the engine only appends. -/
theorem consoleIsAppendOnly : Obligations.ConsoleIsAppendOnly := by
  intro s t h
  obtain ⟨-, ⟨-, rfl⟩ | ⟨-, hturn⟩⟩ := step_next_cases h
  · exact ⟨[], (List.append_nil _).symm⟩
  · obtain ⟨out, hout⟩ := turn_console_grows hturn
    exact ⟨out, hout.symm⟩

end Sys2Proof.Machine
end

section
/-! PROOFS. The reserved opcodes RTI and RES (spec/46_reserved.md R143, R144): both raise ReservedOpcode, so what that
event does, and what the step after it answers, is said once for both. -/

namespace Sys2Proof.Machine

theorem State.raiseReservedOpcode_endsRun (s : State) (op : BitVec 4) :
    EndsRun s (s.raiseReservedOpcode op) (.fault (.reservedOpcode op (s.pc - 1#16))) :=
  s.endRun_endsRun _

/-- No instruction runs after a reserved opcode: the next step answers the fault (R146, R150). -/
theorem step_raiseReservedOpcode (s : State) (op : BitVec 4) :
    step (s.raiseReservedOpcode op) = .fault (.executionFault (.reservedOpcode op (s.pc - 1#16))) :=
  step_of_ended (by rw [s.raiseReservedOpcode_run op]; rfl)

/-- Settles O45: RTI ignores ir[11:0] (R94), and raises opcode x8. -/
theorem rtiFaults : Obligations.RtiFaults :=
  ⟨fun _ h => decode_of_encode_eq rfl h, fun s =>
    ⟨_, rfl, s.raiseReservedOpcode_endsRun 0x8#4, step_raiseReservedOpcode s 0x8#4, fun _ => rfl⟩⟩

/-- Settles O46: RES ignores ir[11:0] (R94), and raises opcode xD. -/
theorem resFaults : Obligations.ResFaults :=
  ⟨fun _ h => decode_of_encode_eq rfl h, fun s =>
    ⟨_, rfl, s.raiseReservedOpcode_endsRun 0xD#4, step_raiseReservedOpcode s 0xD#4⟩⟩

end Sys2Proof.Machine
end

section
/-! PROOFS. The host's signal, the wait for input, and the input (spec/60_exceptions.md R154, R156, R165, R167): what
is left of the input after a step is what remains after taking events from its front. -/

namespace Sys2Proof.Machine

/-! ## The signal and the wait -/

/-- The next step answers that the run was aborted (R146, R150). -/
theorem step_abort (s : State) : step s.abort = .fault .aborted :=
  step_of_ended (by rw [s.abort_run]; rfl)

/-- Settles O8: the signal is taken before anything else, by the terminal event ABORTED. -/
theorem signalAbortsTheRun : Obligations.SignalAbortsTheRun :=
  fun s hrun hsig => ⟨s.abort, step_of_signal hrun hsig, s.endRun_endsRun .aborted, step_abort s⟩

/-- An engine that comes to hold where it held already has only taken the countdown (log 11). -/
theorem onlyTicks_of_comesToHold {s t : State} {h : Hold} (hhold : s.hold = some h)
    (hc : ComesToHold s.tick t h) : OnlyTicks s t := by
  obtain ⟨ht, hregs, hcond, hpc, hwords, hrun, hkeyboard, hconsole, hflushed, hsig⟩ := hc
  exact ⟨hsig, hregs, hcond, hpc, hwords, hrun, ht.trans hhold.symm, hkeyboard, hconsole, hflushed⟩

/-- Settles O9: the service's read in `s.tick` finds no event, and holds as before. -/
theorem holdWaitsForInput : Obligations.HoldWaitsForInput := by
  rintro s hrun (hhold | hhold) hsig hn <;> rw [step_of_hold hrun hsig hhold]
  · obtain ⟨t, ht, hc⟩ := getcRead_waits (s := s.tick) hn
    exact ⟨t, ht, onlyTicks_of_comesToHold hhold hc⟩
  · obtain ⟨t, ht, hc⟩ := inRead_waits (s := s.tick) hn
    exact ⟨t, ht, onlyTicks_of_comesToHold hhold hc⟩

/-! ## One pending key -/

theorem State.keyAvailable_eq_false {s : State} (h : s.keyboard.next = none) :
    s.keyAvailable = false := by
  simp only [State.keyAvailable, h]

/-- A draw is true only where there is a next event (R165). -/
theorem State.exists_next_of_keyAvailable {s : State} (h : s.keyAvailable = true) :
    ∃ e rest, s.keyboard.next = some (e, rest) := by
  cases hn : s.keyboard.next with
  | none => simp [State.keyAvailable_eq_false hn] at h
  | some p => exact ⟨p.1, p.2, rfl⟩

/-- KBDR is read as a plain cell (R54). -/
theorem State.memRead_kbdr {s : State} {v : Word} (h : s.mem.read Config.kbdrAddr = v) :
    s.memRead Config.kbdrAddr = .value v s := by
  rw [State.memRead_of_ne (by decide), h]

/-- Whether an input has a next event does not depend on the draws. -/
theorem Keyboard.next_eq_none_of_same_input {k k' : Keyboard} (hevents : k'.events = k.events)
    (hfurther : k'.further = k.further) (h : k.next = none) : k'.next = none := by
  obtain ⟨hnil, hends⟩ := Keyboard.next_eq_none h
  simp only [Keyboard.next, hevents, hnil, hfurther, hends]

/-- Settles O17: the poll that finds the key takes the last event, so the next poll is idle and leaves KBDR. -/
theorem keyboardProtocol : Obligations.KeyboardProtocol := by
  intro s k rest hk hn hlast
  obtain ⟨-, -, hkey, -⟩ := kbsrReadPolls s Config.kbsrAddr
  obtain ⟨u, ⟨-, ⟨hevents, hfurther, -, -⟩, hu⟩, hread⟩ := hkey k rest rfl hk hn
  have hnone : u.keyboard.next = none := Keyboard.next_eq_none_of_same_input hevents hfurther hlast
  obtain ⟨-, hidle, -, -⟩ := kbsrReadPolls u Config.kbsrAddr
  obtain ⟨v, ⟨-, -, hv⟩, hread'⟩ := hidle rfl (State.keyAvailable_eq_false hnone)
  have hukbdr : u.mem.read Config.kbdrAddr = zext k := by rw [hu, if_neg (by decide), if_pos rfl]
  have hvkbdr : v.mem.read Config.kbdrAddr = zext k := by rw [hv, if_neg (by decide), hukbdr]
  exact ⟨u, v, hread, State.memRead_kbdr hukbdr, hread', State.memRead_kbdr hvkbdr⟩

/-! ## The input after an operation -/

/-- What is left in `k'` of the input of `k`: events were taken from its front, in order (R165). -/
def Keyboard.LeavesInput (k k' : Keyboard) : Prop := ∃ taken, Took k taken k'

section Input

variable {s t u : State}

theorem Keyboard.LeavesInput.refl (k : Keyboard) : k.LeavesInput k := ⟨[], rfl, rfl⟩

theorem Keyboard.LeavesInput.of_eq {k k' : Keyboard} (h : k' = k) : k.LeavesInput k' :=
  h ▸ .refl k

theorem Keyboard.LeavesInput.trans {k k' k'' : Keyboard} (h : k.LeavesInput k')
    (h' : k'.LeavesInput k'') : k.LeavesInput k'' := by
  obtain ⟨es, hes⟩ := h
  obtain ⟨es', hes'⟩ := h'
  exact ⟨es ++ es', hes.append hes'⟩

/-- A draw takes no event. -/
theorem Keyboard.leavesInput_afterDraw (k : Keyboard) : k.LeavesInput k.afterDraw := ⟨[], rfl, rfl⟩

/-- A ReadKey takes the next event. -/
theorem Keyboard.leavesInput_of_next {k rest : Keyboard} {e : KeyEvent} (h : k.next = some (e, rest)) :
    k.LeavesInput rest :=
  ⟨[e], rest, h, rfl, rfl⟩

theorem State.memRead_value_leavesInput {a v : Word} (h : s.memRead a = .value v u) :
    s.keyboard.LeavesInput u.keyboard := by
  rcases State.memRead_value h with ⟨-, -, rfl⟩ | ⟨-, -, -, rfl⟩ | ⟨k, rest, -, -, hn, -, rfl⟩
  · exact .refl _
  · exact s.keyboard.leavesInput_afterDraw
  · exact (Keyboard.leavesInput_of_next hn).trans rest.leavesInput_afterDraw

theorem State.memRead_failed_leavesInput {a : Word} (h : s.memRead a = .failed u) :
    s.keyboard.LeavesInput u.keyboard := by
  obtain ⟨rest, -, -, hn, rfl⟩ := State.memRead_failed h
  exact (Keyboard.leavesInput_of_next hn).trans rest.leavesInput_afterDraw

theorem loadWord_leavesInput {dr : Reg} {ea : Word} (h : loadWord dr ea s = .next t) :
    s.keyboard.LeavesInput t.keyboard := by
  rcases loadWord_cases dr ea s with ⟨v, u, hr, hl⟩ | ⟨u, hr, hl⟩ <;> cases hl.symm.trans h
  · exact (State.memRead_value_leavesInput hr :)
  · exact (State.memRead_failed_leavesInput hr :)

theorem getcRead_leavesInput (h : getcRead s = .next t) : s.keyboard.LeavesInput t.keyboard := by
  rcases getcRead_cases s with ⟨-, hg⟩ | ⟨k, rest, hn, hg⟩ | ⟨rest, hn, hg⟩ <;> cases hg.symm.trans h
  · exact .refl _
  · exact Keyboard.leavesInput_of_next hn
  · exact Keyboard.leavesInput_of_next hn

theorem inRead_leavesInput (h : inRead s = .next t) : s.keyboard.LeavesInput t.keyboard := by
  rcases inRead_cases s with ⟨-, hg⟩ | ⟨k, rest, hn, hg⟩ | ⟨rest, hn, hg⟩ <;> cases hg.symm.trans h
  · exact .refl _
  · exact Keyboard.leavesInput_of_next hn
  · exact Keyboard.leavesInput_of_next hn

theorem StringRun.leavesInput {bytesOf : Word → List Byte} {a : Word} (h : StringRun bytesOf a s t) :
    s.keyboard.LeavesInput t.keyboard := by
  induction h with
  | stop hr => exact (State.memRead_value_leavesInput hr :)
  | more hr _ _ ih => exact (State.memRead_value_leavesInput hr).trans ih
  | failed hr hend =>
    obtain ⟨-, -, -, -, -, -, hkeyboard, -⟩ := hend
    exact (State.memRead_failed_leavesInput hr).trans (.of_eq hkeyboard)

theorem StringGoesOn.leavesInput {bytesOf : Word → List Byte} {inside : Word → Hold} {n : Nat}
    {a : Word} (h : StringGoesOn bytesOf inside n a s t) : s.keyboard.LeavesInput t.keyboard := by
  induction h with
  | pause => exact .refl _
  | more hr _ _ ih => exact (State.memRead_value_leavesInput hr).trans ih

theorem putsLoop_leavesInput {bytesOf : Word → List Byte} {inside : Word → Hold} {fuel : Nat}
    {a : Word} (h : putsLoop bytesOf inside fuel a s = .next t) :
    s.keyboard.LeavesInput t.keyboard := by
  obtain ⟨t', ht, hends | hon⟩ := putsLoop_cases bytesOf inside fuel a s <;> cases ht.symm.trans h
  · exact hends.leavesInput
  · exact hon.leavesInput

/-! ## The input after a step -/

/-- An instruction takes events only by the MemReads and the ReadKeys it makes. -/
theorem exec_leavesInput {i : Instr} (h : exec i s = .next t) :
    s.keyboard.LeavesInput t.keyboard := by
  cases i
  case ld | ldr => exact loadWord_leavesInput h
  case ldi dr off =>
    rcases execLdi_cases dr off s with ⟨ea, u, hr, hl⟩ | ⟨u, hr, hl⟩
    · exact (State.memRead_value_leavesInput hr).trans (loadWord_leavesInput (hl.symm.trans h))
    · cases hl.symm.trans h
      exact (State.memRead_failed_leavesInput hr :)
  case sti sr off =>
    rcases execSti_cases sr off s with ⟨ea, u, hr, hl⟩ | ⟨u, hr, hl⟩ <;> cases hl.symm.trans h
    · exact (State.memRead_value_leavesInput hr :)
    · exact (State.memRead_failed_leavesInput hr :)
  case trapGetc => exact getcRead_leavesInput (s := s.trapEntry) h
  case trapIn =>
    exact inRead_leavesInput (s := (s.trapEntry.consoleOut Config.inPrompt).consoleFlush) h
  case trapPuts | trapPutsp => exact putsLoop_leavesInput (s := s.trapEntry) h
  case br =>
    cases h
    split <;> exact .refl _
  all_goals
    cases h
    exact .refl _

theorem resume_leavesInput {h : Hold} (ht : resume h s = .next t) :
    s.keyboard.LeavesInput t.keyboard := by
  cases h with
  | getc => exact getcRead_leavesInput ht
  | inSvc => exact inRead_leavesInput ht
  | puts a | putsp a => exact putsLoop_leavesInput ht

theorem fetchExec_leavesInput (h : fetchExec s = .next t) : s.keyboard.LeavesInput t.keyboard := by
  cases hr : s.memRead s.pc with
  | value ir u =>
    exact (State.memRead_value_leavesInput hr).trans
      (exec_leavesInput (s := u.advancePc) ((fetchExec_value hr).symm.trans h))
  | failed u =>
    cases (fetchExec_failed hr).symm.trans h
    exact (State.memRead_failed_leavesInput hr :)

theorem turn_leavesInput (h : turn s = .next t) : s.keyboard.LeavesInput t.keyboard := by
  unfold turn at h
  split at h
  · exact resume_leavesInput h
  · exact fetchExec_leavesInput h

theorem step_leavesInput (h : step s = .next t) : s.keyboard.LeavesInput t.keyboard := by
  obtain ⟨-, ⟨-, rfl⟩ | ⟨-, hturn⟩⟩ := step_next_cases h
  · exact .refl _
  · exact turn_leavesInput (s := s.tick) hturn

end Input

/-- Settles O54: the input is followed through the step, and a draw without a next event is false. -/
theorem inputIsConsumedInOrder : Obligations.InputIsConsumedInOrder :=
  ⟨fun _ _ h => step_leavesInput h, fun _ h => State.exists_next_of_keyAvailable h⟩

end Sys2Proof.Machine
end

section
/-! PROOFS. The loader and the launch (spec/70_reset_and_hazards.md R176 to R179; spec/60_exceptions.md R149): which
files are images, what a loaded image leaves in memory, and that no run starts after a LoadError. -/

namespace Sys2Proof.Machine

/-! ## A file's words -/

/-- The first byte of a word is its upper half (R176). -/
theorem toNat_append_bytes (hi lo : Byte) : (hi ++ lo).toNat = 256 * hi.toNat + lo.toNat := by
  rw [BitVec.toNat_append, ← Nat.shiftLeft_add_eq_or_of_lt lo.isLt, Nat.shiftLeft_eq, Nat.mul_comm]

theorem imageWords_cons_cons {hi lo : Byte} {rest : List Byte} {ws : List Word}
    (h : imageWords rest = some ws) : imageWords (hi :: lo :: rest) = some ((hi ++ lo) :: ws) := by
  simp only [imageWords, h, Option.map_some]

/-- A file of words has two bytes for each. -/
theorem length_of_imageWords {bytes : List Byte} {ws : List Word} (h : imageWords bytes = some ws) :
    bytes.length = 2 * ws.length := by
  induction bytes using imageWords.induct generalizing ws with
  | case1 =>
    cases h
    rfl
  | case2 => cases h
  | case3 hi lo rest ih =>
    obtain ⟨ws', hrest, rfl⟩ := Option.map_eq_some_iff.mp h
    simp only [List.length_cons, ih hrest]
    omega

/-! ## The words stored -/

/-- The distance from the address above `a` is one less, where `b` is not `a` itself. -/
theorem toNat_sub_succ {a b : Word} (h : b ≠ a) : (b - a).toNat = (b - (a + 1#16)).toNat + 1 := by
  have hne : b.toNat ≠ a.toNat := fun heq => h (BitVec.eq_of_toNat_eq heq)
  simp only [BitVec.toNat_sub, BitVec.toNat_add, BitVec.toNat_ofNat]
  omega

/-- Words stored from `a` on are read back at their distance from `a`, modulo 2^16, every other word as before. -/
theorem read_storeWords (m : Memory) (a b : Word) {ws : List Word} (hlen : ws.length ≤ 65536) :
    (storeWords m a ws).read b =
      if (b - a).toNat < ws.length then ws.getD (b - a).toNat 0#16 else m.read b := by
  induction ws generalizing m a with
  | nil => rfl
  | cons w ws ih =>
    rw [List.length_cons] at hlen
    rw [storeWords, ih _ _ (by omega), Memory.read_write, List.length_cons]
    by_cases hb : b = a
    · subst hb
      have hlast : (b - (b + 1#16)).toNat = 65535 := by
        simp only [BitVec.toNat_sub, BitVec.toNat_add, BitVec.toNat_ofNat]
        omega
      rw [if_neg (by omega), if_pos rfl, BitVec.sub_self, BitVec.toNat_zero, if_pos (by omega),
        List.getD_cons_zero]
    · rw [toNat_sub_succ hb, if_neg hb, List.getD_cons_succ]
      simp only [Nat.add_lt_add_iff_right]

/-- Where the words fit up to xFFFF no address wraps (R178). -/
theorem read_storeWords_of_fits (m : Memory) {a : Word} (b : Word) {ws : List Word}
    (hfits : a.toNat + ws.length ≤ 65536) :
    (storeWords m a ws).read b =
      if a.toNat ≤ b.toNat ∧ b.toNat < a.toNat + ws.length
      then ws.getD (b.toNat - a.toNat) 0#16 else m.read b := by
  have hb := b.isLt
  rw [read_storeWords m a b (by omega), BitVec.toNat_sub]
  by_cases hle : a.toNat ≤ b.toNat
  · rw [show (2 ^ 16 - a.toNat + b.toNat) % 2 ^ 16 = b.toNat - a.toNat by omega]
    congr 1
    exact propext (by omega)
  · rw [if_neg (by omega), if_neg (fun h => hle h.1)]

/-! ## One image -/

/-- An image loads exactly where it has an origin and its words fit (R178). -/
theorem loadImage_eq_some_iff {bytes : List Byte} {m m' : Memory} :
    loadImage (some bytes) m = some m' ↔ ∃ origin ws, imageWords bytes = some (origin :: ws) ∧
      origin.toNat + ws.length ≤ 65536 ∧ storeWords m origin ws = m' := by
  rcases h : imageWords bytes with _ | _ | ⟨origin, ws⟩
  · simp [loadImage, h]
  · simp [loadImage, h]
  · simp [loadImage, h, and_assoc]

/-- Settles O59: the first two bytes make the first word, and an image that fits is stored word by word. -/
theorem imageIsStoredAtItsOrigin : Obligations.ImageIsStoredAtItsOrigin :=
  ⟨fun hi lo _ _ h => ⟨_, imageWords_cons_cons h, toNat_append_bytes hi lo⟩,
    fun _ _ _ m h hfits => ⟨_, loadImage_eq_some_iff.mpr ⟨_, _, h, hfits, rfl⟩,
      fun a => read_storeWords_of_fits m a hfits⟩⟩

/-! ## Load errors -/

/-- An image that loads has a whole number of words, and one at least. -/
theorem loadImage_eq_none_of_length {bytes : List Byte} (m : Memory)
    (h : bytes.length < 2 ∨ bytes.length % 2 = 1) : loadImage (some bytes) m = none := by
  refine Option.eq_none_iff_forall_ne_some.mpr fun m' hload => ?_
  obtain ⟨origin, ws, hwords, -, -⟩ := loadImage_eq_some_iff.mp hload
  have hlen := length_of_imageWords hwords
  rw [List.length_cons] at hlen
  omega

theorem loadImage_eq_none_of_not_fits {bytes : List Byte} {origin : Word} {ws : List Word} (m : Memory)
    (hwords : imageWords bytes = some (origin :: ws)) (h : 65536 < origin.toNat + ws.length) :
    loadImage (some bytes) m = none := by
  refine Option.eq_none_iff_forall_ne_some.mpr fun m' hload => ?_
  obtain ⟨origin', ws', hwords', hfits, -⟩ := loadImage_eq_some_iff.mp hload
  cases hwords.symm.trans hwords'
  omega

/-- The images after a loaded prefix are loaded into the prefix's memory (R179). -/
theorem loadImages_append {pre : List (Option (List Byte))} {m m' : Memory}
    (h : loadImages pre m = some m') (post : List (Option (List Byte))) :
    loadImages (pre ++ post) m = loadImages post m' := by
  induction pre generalizing m with
  | nil =>
    cases h
    rfl
  | cons f fs ih =>
    rw [List.cons_append]
    cases hf : loadImage f m with
    | none => simp [loadImages, hf] at h
    | some m1 =>
      simp only [loadImages, hf] at h ⊢
      exact ih h

theorem loadImages_cons_error {f : Option (List Byte)} {m : Memory} (h : loadImage f m = none)
    (fs : List (Option (List Byte))) : loadImages (f :: fs) m = none := by
  simp only [loadImages, h]

/-- No run starts where the images do not load (R149). -/
theorem launch_of_loadError {files : List (Option (List Byte))} (h : loadImages files [] = none)
    (pc0 : Word) (kbd : Keyboard) (sig : Option Nat) :
    launch files pc0 kbd sig = .fault .loadError := by
  cases files with
  | nil => cases h
  | cons f fs => simp only [launch, h]

/-- Settles O60: what does not load stops the images after it, and so the launch. -/
theorem loadErrorsStopTheLaunch : Obligations.LoadErrorsStopTheLaunch :=
  ⟨fun _ => rfl, fun _ m h => loadImage_eq_none_of_length m h,
    fun _ _ _ m hwords h => loadImage_eq_none_of_not_fits m hwords h,
    fun _ post _ _ pc0 kbd sig hpre hf => launch_of_loadError
      ((loadImages_append hpre _).trans (loadImages_cons_error hf post)) pc0 kbd sig,
    fun _ _ _ => rfl⟩

end Sys2Proof.Machine
end
